-- ==== Sys2Proof/Word.lean ====
section
/-! DEFINITION. The word types of the PIDVEL block (10_state.md, 00_scope.md R9 to R11): bytes,
binary32 words, the joint index, one value per joint, and the record of numeric primitives. -/

namespace Sys2Proof

/-- One byte of the host link (R10). -/
abbrev Byte := BitVec 8

/-- A value of `FMT`, held as its 32-bit binary32 encoding `bits32(v)` (R11, R55, D1). -/
abbrev Fp := BitVec 32

/-- The joint index `j` in 0..2 (R9); protocol joint `n` is index `n - 1` (C5). -/
abbrev Joint := Fin 3

/-- The joints in the order in which every activity of the block visits them (R151, D7). -/
def joints : List Joint := [0, 1, 2]

/-- One value for each of the three joints (R20, R26: no record aliases another). -/
structure PerJoint (α : Type) where
  j0 : α
  j1 : α
  j2 : α
deriving DecidableEq, Repr

/-- `x[j]` of R13. -/
def PerJoint.get {α : Type} (p : PerJoint α) : Joint → α
  | 0 => p.j0
  | 1 => p.j1
  | 2 => p.j2

/-- `x[j] <- v` of R13. -/
def PerJoint.set {α : Type} (p : PerJoint α) (j : Joint) (v : α) : PerJoint α :=
  match j with
  | 0 => { p with j0 := v }
  | 1 => { p with j1 := v }
  | 2 => { p with j2 := v }

/-- The same value for the three joints. -/
def PerJoint.same {α : Type} (v : α) : PerJoint α := ⟨v, v, v⟩

/-- The four operations and two comparisons of R11, in one record so that the decided format can be
changed in one place (R123). -/
structure Numerics where
  fadd : Fp → Fp → Fp
  fsub : Fp → Fp → Fp
  fmul : Fp → Fp → Fp
  fdiv : Fp → Fp → Fp
  flt : Fp → Fp → Bool
  fgt : Fp → Fp → Bool

end Sys2Proof
end

