-- ==== Sys2Proof/Syntax.lean ====
section
/-! DEFINITION. The instructions of the PIDVEL block, one constructor per row of
spec/opcode_table.json (00_scope.md R2): the six host commands and the three micro-operations. TICK is
an event without an encoding and no row (R150); the machine's step runs it. -/

namespace Sys2Proof

/-- One row of the opcode table with its operands. -/
inductive Instr where
  /-- ENABLE, opcode 0x01 (R171). -/
  | enable
  /-- DISABLE, opcode 0x02 (R172). -/
  | disable
  /-- GETSTATE, opcode 0x03 (R173). -/
  | getstate
  /-- SETPOINT sp0, sp1, sp2, opcode 0x04 and 12 payload bytes (R174). -/
  | setpoint (sp0 sp1 sp2 : Fp)
  /-- GRIPOPEN, opcode 0x05 (R177). -/
  | gripopen
  /-- GRIPCLOSE, opcode 0x06 (R178). -/
  | gripclose
  /-- VEL.SAMPLE j, a: select word 00jj, bus A = a (R141). -/
  | velSample (j : Joint) (a : Fp)
  /-- PID.UPDATE j, e, ff: select word 01jj, bus A = e, bus B = ff (R113). -/
  | pidUpdate (j : Joint) (e ff : Fp)
  /-- PID.RESET j: select word 10jj (R111). -/
  | pidReset (j : Joint)
deriving DecidableEq, Repr

/-- How an instruction reaches the block (R80, R91): the bytes a host sends, or a micro-operation select
word with the operand buses A and B. -/
inductive Code where
  | host (bytes : List Byte)
  | micro (uop : BitVec 4) (A B : Fp)
deriving DecidableEq, Repr

end Sys2Proof
end

