-- ==== Sys2Proof/WellFormed.lean ====
section
/-! DEFINITION. The checks on what is written down rather than computed: joint numbers of a program
line, micro-operation select words (R92) and the length of a host command (R84). An `Instr` has no
ill-formed term: its joint index is a `Joint` (R9, R91) and every 32-bit pattern is an accepted operand
(R86), so `Instr.wellFormed` can only hold; the checks that can fail stand before decoding. -/

namespace Sys2Proof

/-- A joint number as a program line may write it is a joint index (R9). -/
def jointInRange (n : Nat) : Bool := decide (n < 3)

/-- A select word the block's sequencing produces: neither `11jj` nor `xx11` (R92). -/
def microOpWellFormed (uop : BitVec 4) : Bool :=
  uop.extractLsb 3 2 != 3#2 && uop.extractLsb 1 0 != 3#2

/-- How many bytes the command that begins with this opcode byte has (R84). -/
def commandLength (opcode : Byte) : Nat := if opcode = 0x04#8 then 13 else 1

/-- A byte string is one whole host command of the opcode map (R84, R85). -/
def hostBytesWellFormed : List Byte → Bool
  | [] => false
  | b :: bs => decide (0x01#8 ≤ b) && decide (b ≤ 0x06#8) && (b :: bs).length == commandLength b

/-- A code is one the block gives a meaning to. -/
def Code.wellFormed : Code → Bool
  | .host bytes => hostBytesWellFormed bytes
  | .micro uop _ _ => microOpWellFormed uop

/-- Every instruction's joint is in range (R9); the other operands are unrestricted (R86). -/
def Instr.wellFormed : Instr → Bool
  | .enable => true
  | .disable => true
  | .getstate => true
  | .setpoint _ _ _ => true
  | .gripopen => true
  | .gripclose => true
  | .velSample j _ => jointInRange j.val
  | .pidUpdate j _ _ => jointInRange j.val
  | .pidReset j => jointInRange j.val

end Sys2Proof
end

