-- ==== Sys2Proof/Decode.lean ====
section
/-! DEFINITION. The decoders of the two encodings, host command bytes (30_encoding.md R80 to R88) and
micro-operation select words (R91, R92), then the encoder. Both decoders are total and answer by name
what they do not read as an instruction. -/

namespace Sys2Proof

/-- The word `{b3, b2, b1, b0}` of four bytes in order of arrival (R10, R86). -/
def wordOfBytes (b0 b1 b2 b3 : Byte) : Fp := b3 ++ b2 ++ b1 ++ b0

/-- Byte `i` of a word, byte 0 the least significant (R10). -/
def byteOf (w : Fp) (i : Fin 4) : Byte := w.extractLsb' (8 * i.val) 8

/-- The four bytes of a word in order of transmission (R86). -/
def bytesOfWord (w : Fp) : List Byte := [byteOf w 0, byteOf w 1, byteOf w 2, byteOf w 3]

/-- What the host command decoder answers on the bytes received so far. -/
inductive Decoded where
  /-- A whole command, and the bytes after it. -/
  | instr (i : Instr) (rest : List Byte)
  /-- The bytes are the beginning of a command that is not complete yet (R31, R84). -/
  | incomplete
  /-- The first byte is no opcode of the map (R88): a complete command of length 1 without effect. -/
  | unrecognised (opcode : Byte) (rest : List Byte)
deriving DecidableEq, Repr

/-- The operands of SETPOINT from its 12 payload bytes (R52, R82, R86). -/
def decodeSetpoint : List Byte → Decoded
  | a0 :: a1 :: a2 :: a3 :: b0 :: b1 :: b2 :: b3 :: c0 :: c1 :: c2 :: c3 :: rest =>
    .instr (.setpoint (wordOfBytes a0 a1 a2 a3) (wordOfBytes b0 b1 b2 b3) (wordOfBytes c0 c1 c2 c3)) rest
  | _ => .incomplete

/-- The host command decoder: the opcode map of R85. -/
def decode : List Byte → Decoded
  | [] => .incomplete
  | b :: rest =>
    if b = 0x01#8 then .instr .enable rest
    else if b = 0x02#8 then .instr .disable rest
    else if b = 0x03#8 then .instr .getstate rest
    else if b = 0x04#8 then decodeSetpoint rest
    else if b = 0x05#8 then .instr .gripopen rest
    else if b = 0x06#8 then .instr .gripclose rest
    else .unrecognised b rest

/-- The joint a 2-bit field names; 3 names none (R91, R92). -/
def jointOfField (f : BitVec 2) : Option Joint :=
  if f = 0#2 then some 0 else if f = 1#2 then some 1 else if f = 2#2 then some 2 else none

/-- The micro-operation decoder (R91): `none` for the reserved patterns of R92. -/
def decodeMicro (uop : BitVec 4) (A B : Fp) : Option Instr :=
  match jointOfField (uop.extractLsb 1 0) with
  | none => none
  | some j =>
    let op := uop.extractLsb 3 2
    if op = 0#2 then some (.velSample j A)
    else if op = 1#2 then some (.pidUpdate j A B)
    else if op = 2#2 then some (.pidReset j)
    else none

/-- The instruction a code stands for, if it is exactly one instruction. -/
def decodeCode : Code → Option Instr
  | .host bytes =>
    match decode bytes with
    | .instr i [] => some i
    | _ => none
  | .micro uop A B => decodeMicro uop A B

/-- The 2-bit field of a joint (R91). -/
def fieldOfJoint (j : Joint) : BitVec 2 := BitVec.ofNat 2 j.val

/-- The encoder, from R81 to R83 and R91; a bus an operation leaves unused carries +0.0. -/
def encode : Instr → Code
  | .enable => .host [0x01#8]
  | .disable => .host [0x02#8]
  | .getstate => .host [0x03#8]
  | .setpoint sp0 sp1 sp2 => .host (0x04#8 :: (bytesOfWord sp0 ++ bytesOfWord sp1 ++ bytesOfWord sp2))
  | .gripopen => .host [0x05#8]
  | .gripclose => .host [0x06#8]
  | .velSample j a => .micro (0#2 ++ fieldOfJoint j) a 0#32
  | .pidUpdate j e ff => .micro (1#2 ++ fieldOfJoint j) e ff
  | .pidReset j => .micro (2#2 ++ fieldOfJoint j) 0#32 0#32

/-- The first `n` bytes of a number, the least significant first (R10). -/
def bytesOfNat : Nat → Nat → List Byte
  | 0, _ => []
  | n + 1, w => BitVec.ofNat 8 w :: bytesOfNat n (w / 256)

/-- The code an instruction of `nbits` bits with the value `w` has, every bit above `nbits` zero: fewer
than 8 bits are a micro-operation select word with both buses +0.0, 8 bits or more are the bytes of one
host command (R80, R91; DESIGN CHOICE, log 10). -/
def codeOfTableWord (nbits w : Nat) : Code :=
  let v := w % 2 ^ nbits
  if nbits < 8 then .micro (BitVec.ofNat 4 v) 0#32 0#32
  else .host (bytesOfNat (commandLength (BitVec.ofNat 8 v)) v)

/-- The instruction the decoder reads from a word of spec/opcode_table.json. -/
def decodeTableWord (nbits w : Nat) : Option Instr := decodeCode (codeOfTableWord nbits w)

end Sys2Proof
end

