-- ==== Sys2Proof/Config.lean ====
section
/-! DEFINITION. What an implementation fixes and what the spec leaves open: the configuration's
parameters (00_scope.md R7) and the free values (93_implementation_defined.md). -/

namespace Sys2Proof

namespace Config

/-- Which operation delivered a NaN: an index of the free NaN encodings. -/
inductive FpOp where
  | add
  | mul
  | div
deriving DecidableEq, Repr

/-- FREE VALUE (DESIGN CHOICE, log 2): the encoding of the NaN an operation delivers on two operands. -/
opaque nanBits : FpOp → BitVec 32 → BitVec 32 → BitVec 32

/-- FREE VALUE (log 3, log 5): the n-th value the run draws where the spec admits `any value` of `FMT`
(U1: clamp of a NaN; U7, R155: an encoder answer that no input lists). -/
opaque freeFp : Nat → BitVec 32

/-- FREE VALUE (log 17): the angle an Encoder Channel computes from a raw 12-bit count and a home
offset, before `State.readAngle` makes it finite (R201); R201 gives neither the angle-per-count constant nor
the rounding (N5). -/
opaque encoderAngle : BitVec 12 → BitVec 32 → BitVec 32

end Config

/-- `AW`, the anti-windup mode (R7, R120, D4). -/
inductive AntiWindup where
  | none
  | freeze
deriving DecidableEq, Repr

/-- `SNAP`, the snapshot policy between the two execution contexts (R7, R58, R59, D8). -/
inductive Snapshot where
  | guarded
  | unguarded
deriving DecidableEq, Repr

/-- The hardware-defined constants of one Actuator Channel (R207); the source gives no value (N18). -/
structure ActuatorConstants where
  offset : Fp
  pulse_range : Fp
  cmd_max : Fp
  pulse_min : Fp
  pulse_max : Fp
deriving DecidableEq, Repr

/-- The configuration parameters of R7 (`NJ` is fixed at 3, `FMT` is `Sys2Proof.FMT`, `T` is computed
from `F` by D11), with the actuator constants of R207. Whether it is valid is `Parameters.valid`. -/
structure Parameters where
  F : Fp
  kp : PerJoint Fp
  ki : PerJoint Fp
  kd : PerJoint Fp
  u_min : PerJoint Fp
  u_max : PerJoint Fp
  min_angle : PerJoint Fp
  max_angle : PerJoint Fp
  home : PerJoint Fp
  AW : AntiWindup
  SNAP : Snapshot
  act : PerJoint ActuatorConstants
deriving DecidableEq, Repr

end Sys2Proof
end

