-- ==== Sys2Proof/Machine/Fp.lean ====
section
/-! DEFINITION. IEEE-754 binary32 arithmetic (00_scope.md R11, 30_encoding.md R87, 40_pid.md R123,
D1): each operation is computed exactly and rounded once, ties to even, subnormals kept.

Every finite binary32 value is a whole number of units of 2^-149, the smallest subnormal. The exact
result of an operation is a fraction of such units; `roundUnits` rounds it. -/

namespace Sys2Proof

/-- +0.0 (R11). -/
def Fp.zero : Fp := 0x00000000#32

/-- 1.0 (R87). -/
def Fp.one : Fp := 0x3F800000#32

/-- The sign bit 31 (R87). -/
def Fp.sign (x : Fp) : Bool := x.getMsbD 0

/-- The biased exponent, bits 30:23 (R87). -/
def Fp.expo (x : Fp) : Nat := (x.extractLsb 30 23).toNat

/-- The fraction, bits 22:0 (R87). -/
def Fp.frac (x : Fp) : Nat := (x.extractLsb 22 0).toNat

/-- A NaN: exponent 255 and a fraction that is not 0 (R87). -/
def Fp.isNaN (x : Fp) : Bool := Fp.expo x == 255 && Fp.frac x != 0

/-- An infinity: exponent 255 and fraction 0 (R87). -/
def Fp.isInf (x : Fp) : Bool := Fp.expo x == 255 && Fp.frac x == 0

/-- Neither a NaN nor an infinity (R8). -/
def Fp.isFinite (x : Fp) : Bool := Fp.expo x != 255

/-- A finite value from any word: the word itself where it is finite, else the word with exponent bit 30
cleared. Of a free word it is any finite value and no other (R201; log 17). -/
def Fp.finitePart (x : Fp) : Fp := if Fp.isFinite x then x else x &&& 0xBFFFFFFF#32

/-- A zero of either sign (R87). -/
def Fp.isZero (x : Fp) : Bool := Fp.expo x == 0 && Fp.frac x == 0

/-- The magnitude in units of 2^-149 (R87). On an infinity the same formula gives 2^277, above every
finite magnitude, which is what the comparisons need. -/
def Fp.units (x : Fp) : Nat :=
  if Fp.expo x = 0 then Fp.frac x else (2 ^ 23 + Fp.frac x) * 2 ^ (Fp.expo x - 1)

/-- The signed value in units of 2^-149 (both zeros have the value 0). -/
def Fp.value (x : Fp) : Int :=
  if Fp.sign x then -(Fp.units x : Int) else (Fp.units x : Int)

/-- The word with sign `s` and the low 31 bits `m`. -/
def Fp.ofSignMag (s : Bool) (m : Nat) : Fp :=
  BitVec.ofNat 32 (m + if s then 2 ^ 31 else 0)

/-- The infinity of sign `s` (R87). -/
def Fp.inf (s : Bool) : Fp := Fp.ofSignMag s 0x7F800000

/-- The zero of sign `s` (R87). -/
def Fp.signedZero (s : Bool) : Fp := Fp.ofSignMag s 0

/-- Sign change of a word. -/
def Fp.neg (x : Fp) : Fp := x ^^^ 0x80000000#32

/-- The NaN an operation delivers: a quiet NaN whose sign and payload are free (PRESUMED quiet: IEEE
default result, R123; DESIGN CHOICE free bits, log 2). -/
def Fp.nanResult (op : Config.FpOp) (a b : Fp) : Fp := Config.nanBits op a b ||| 0x7FC00000#32

/-- num / den rounded to the nearest natural number, ties to even (R11). -/
def Fp.roundTiesToEven (num den : Nat) : Nat :=
  let q := num / den
  let r := num % den
  if den < 2 * r || (2 * r == den && q % 2 == 1) then q + 1 else q

/-- The binary32 word nearest to (num / den) units of 2^-149 with the given sign, ties to even, overflow
to an infinity (R11, R123). With `k` the shift that leaves 24 significant bits and `m` the rounded
significand, the low 31 bits of the word are `k * 2^23 + m`: for `k = 0` they are `m` itself, normal or
subnormal, and a carry out of `m` moves into the exponent. -/
def Fp.roundUnits (neg : Bool) (num den : Nat) : Fp :=
  let k := Nat.log2 (num / den) - 23
  let m := Fp.roundTiesToEven num (den * 2 ^ k)
  Fp.ofSignMag neg (min (k * 2 ^ 23 + m) 0x7F800000)

/-- Binary32 addition (R11). An exact sum of zero is +0.0 unless both operands are negative (R117). -/
def Fp.add (a b : Fp) : Fp :=
  if Fp.isNaN a || Fp.isNaN b then Fp.nanResult .add a b
  else if Fp.isInf a then
    if Fp.isInf b && (Fp.sign a != Fp.sign b) then Fp.nanResult .add a b else a
  else if Fp.isInf b then b
  else
    let v := Fp.value a + Fp.value b
    if v = 0 then Fp.signedZero (Fp.sign a && Fp.sign b)
    else Fp.roundUnits (decide (v < 0)) v.natAbs 1

/-- Binary32 subtraction (R11): the sum with the second operand's sign changed. -/
def Fp.sub (a b : Fp) : Fp := Fp.add a (Fp.neg b)

/-- Binary32 multiplication (R11); the sign of a product is the exclusive-or of the operand signs. -/
def Fp.mul (a b : Fp) : Fp :=
  let s := Fp.sign a != Fp.sign b
  if Fp.isNaN a || Fp.isNaN b then Fp.nanResult .mul a b
  else if Fp.isInf a || Fp.isInf b then
    if Fp.isZero a || Fp.isZero b then Fp.nanResult .mul a b else Fp.inf s
  else Fp.roundUnits s (Fp.units a * Fp.units b) (2 ^ 149)

/-- Binary32 division (R11). -/
def Fp.div (a b : Fp) : Fp :=
  let s := Fp.sign a != Fp.sign b
  if Fp.isNaN a || Fp.isNaN b then Fp.nanResult .div a b
  else if Fp.isInf a then
    if Fp.isInf b then Fp.nanResult .div a b else Fp.inf s
  else if Fp.isInf b then Fp.signedZero s
  else if Fp.isZero b then
    if Fp.isZero a then Fp.nanResult .div a b else Fp.inf s
  else Fp.roundUnits s (Fp.units a * 2 ^ 149) (Fp.units b)

/-- a < b, false when either is a NaN (R11). -/
def Fp.lt (a b : Fp) : Bool :=
  !Fp.isNaN a && !Fp.isNaN b && decide (Fp.value a < Fp.value b)

/-- a > b, false when either is a NaN (R11). -/
def Fp.gt (a b : Fp) : Bool := Fp.lt b a

/-- a <= b as an order of values: neither is a NaN and a is not above b (R8, R40). -/
def Fp.le (a b : Fp) : Bool :=
  !Fp.isNaN a && !Fp.isNaN b && decide (Fp.value a ≤ Fp.value b)

/-- The numerics of IEEE-754 binary32 (D1). -/
def Fp.binary32 : Numerics where
  fadd := Fp.add
  fsub := Fp.sub
  fmul := Fp.mul
  fdiv := Fp.div
  flt := Fp.lt
  fgt := Fp.gt

/-- `FMT`, the decided format (R7, D1; log 1). -/
def FMT : Numerics := Fp.binary32

/-- `fadd` of R11. -/
def fadd (a b : Fp) : Fp := FMT.fadd a b
/-- `fsub` of R11. -/
def fsub (a b : Fp) : Fp := FMT.fsub a b
/-- `fmul` of R11. -/
def fmul (a b : Fp) : Fp := FMT.fmul a b
/-- `fdiv` of R11. -/
def fdiv (a b : Fp) : Fp := FMT.fdiv a b
/-- `flt` of R11. -/
def flt (a b : Fp) : Bool := FMT.flt a b
/-- `fgt` of R11. -/
def fgt (a b : Fp) : Bool := FMT.fgt a b

/-- `clamp(x, lo, hi)` of R12 (D3), for an `x` that is not a NaN; a NaN is `State.clampFree`'s. -/
def clamp (x lo hi : Fp) : Fp := if flt x lo then lo else if fgt x hi then hi else x

end Sys2Proof
end

