-- ==== Sys2Proof/Machine/Validity.lean ====
section
/-! DEFINITION. When a configuration is valid (00_scope.md R8, D12), and the period computed from the
loop rate (D11). -/

namespace Sys2Proof

/-- `C.T = fdiv(1.0, C.F)` (R7, D11; log 9). -/
def Parameters.T (p : Parameters) : Fp := fdiv Fp.one p.F

/-- What R8 asks of the parameters of one joint. -/
def Parameters.jointValid (p : Parameters) (j : Joint) : Bool :=
  Fp.isFinite (p.kp.get j) && Fp.isFinite (p.ki.get j) && Fp.isFinite (p.kd.get j)
    && Fp.isFinite (p.u_min.get j) && Fp.isFinite (p.u_max.get j) && Fp.le (p.u_min.get j) (p.u_max.get j)
    && Fp.isFinite (p.min_angle.get j) && Fp.isFinite (p.max_angle.get j)
    && Fp.le (p.min_angle.get j) (p.max_angle.get j) && Fp.isFinite (p.home.get j)

/-- What R207 and R208 need of one Actuator Channel's constants: a positive `cmd_max`, an ordered window
that holds the neutral offset, and a finite scale (DEDUCED, log 12). -/
def ActuatorConstants.valid (a : ActuatorConstants) : Bool :=
  Fp.isFinite a.offset && Fp.isFinite a.pulse_range && Fp.isFinite a.cmd_max && flt Fp.zero a.cmd_max
    && Fp.isFinite (fdiv a.pulse_range a.cmd_max) && Fp.isFinite a.pulse_min && Fp.isFinite a.pulse_max
    && Fp.le a.pulse_min a.offset && Fp.le a.offset a.pulse_max

/-- A valid configuration (R8): every value finite, `F > 0`, `T > 0`, bounds and limits in order. -/
def Parameters.valid (p : Parameters) : Bool :=
  Fp.isFinite p.F && flt Fp.zero p.F && Fp.isFinite p.T && flt Fp.zero p.T
    && p.jointValid 0 && p.jointValid 1 && p.jointValid 2
    && p.act.j0.valid && p.act.j1.valid && p.act.j2.valid

end Sys2Proof
end

