-- ==== Sys2Proof/Machine/State.lean ====
section
/-! DEFINITION. The machine's state (10_state.md), its inputs and outputs (00_scope.md R14, R15,
30_encoding.md R93), the reasons a step can stop, and the state after reset (R42). -/

namespace Sys2Proof.Machine

/-- Reasons the machine stops with a fault. The block raises no exception and never stops (R220, R43), so
there is none: no constructor, hence nothing raises one (safe: no behaviour is cut off). -/
inductive Fault where
deriving DecidableEq, Repr

/-- Reasons the model has no transition (93_implementation_defined.md, treatment `refuse`). -/
inductive Refusal where
  /-- Raised by `exec` for an instruction that has no meaning yet; no arm raises it (safe). -/
  | notModelled (mnemonic : String)
  /-- Raised by the step where the micro-operation port holds a reserved pattern, `11jj` or `xx11` (R92, U9).
  Safe: the block's sequencing never produces one, and no step puts a select word on that port (R91). -/
  | reservedMicroOp (uop : BitVec 4)
  /-- Raised by the step when `rst` injects a configuration that is not valid (R8, U2, U3). Safe: the spec
  makes no claim about such a machine. -/
  | invalidConfiguration
deriving DecidableEq, Repr

/-- The configuration `C` of a machine: parameters with the proof that they are valid, so that the model
cannot be instantiated with others (R8, U2, U3; log 7). -/
structure Configuration extends Parameters where
  ok : toParameters.valid = true
deriving DecidableEq, Repr

/-- One JointState record (R20 to R25). -/
structure JointState where
  setpoint : Fp
  angle : Fp
  velocity : Fp
  voltage_cmd : Fp
  previous_angle : Fp
deriving DecidableEq, Repr

/-- One PidState record (R26): the controller is in state Reset exactly when `first` holds (R28). -/
structure PidState where
  ui : Fp
  error_prev : Fp
  first : Bool
deriving DecidableEq, Repr

/-- The gripper command state (R36). -/
inductive Grip where
  | opened
  | closed
deriving DecidableEq, Repr

/-- `DPH`, the dispatcher phase (R31): the `n` of `RxSetpoint(n, buf)` is the length of `buf`. -/
inductive DispatcherPhase where
  | waitOpcode
  | rxSetpoint (buf : List Byte)
deriving DecidableEq, Repr

/-- The state of one Actuator Channel (R204): its gate and the pulse width last written. -/
structure ActuatorState where
  armed : Bool
  pulse : Fp
deriving DecidableEq, Repr

/-- The output events (R15, R200). -/
inductive Event where
  | encRead (j : Joint)
  | actSet (j : Joint) (v : Fp)
  | actEnable (j : Joint)
  | actDisable (j : Joint)
  | gripOpen
  | gripClose
deriving DecidableEq, Repr

/-- The FP fields of one joint that a host command reads or writes (R37). -/
inductive FpField where
  | setpoint
  | angle
  | velocity
  | voltage_cmd
  | ui
  | error_prev
deriving DecidableEq, Repr

/-- One access of a host command under `SNAP = unguarded` (R58, U5; log 13). -/
inductive Access where
  /-- Stores the bytes `left` of the word `w` into a field, one byte at a time. -/
  | store (j : Joint) (f : FpField) (w : Fp) (left : List (Fin 4))
  /-- Reads one byte of a field and sends it at once (DESIGN CHOICE, log 13). -/
  | send (j : Joint) (f : FpField) (i : Fin 4)
  /-- Sets `P[j].first`. -/
  | setFirst (j : Joint)
  /-- Writes `MEN`. -/
  | setMen (v : Bool)
  /-- Writes `GRIP`. -/
  | setGrip (g : Grip)
  /-- Emits an event. -/
  | emit (e : Event)
  /-- Writes `DPH <- WaitOpcode` after the stores of a SETPOINT (R170, R13). -/
  | endPayload
deriving DecidableEq, Repr

/-- What happens next at the block's ports (R93): one entry per step of the total order of R61 (log 4). -/
inductive Input where
  /-- Port `tick` with the three answers `enc_angle` (R150, R155). -/
  | tick (a_in : PerJoint Fp)
  /-- Port `tick`, the answers being computed by the Encoder Channels from their 14-bit register
  payloads (R201). -/
  | tickPayload (p : PerJoint (BitVec 14))
  /-- Port `rx_data`: one byte from the host (R170). -/
  | rx (b : Byte)
  /-- The foreground context runs: it makes one pending access, `pick` choosing the byte where the order is
  open (R58, U5; log 13). -/
  | foreground (pick : Nat)
  /-- Port `rst` with `cfg_*`: power-on, with the gripper where it happens to be (R42, R250, U4; log 16). -/
  | rst (cfg : Parameters) (grip : Grip)
deriving DecidableEq, Repr

/-- A micro-operation select word and the two operand buses (R91). -/
structure MicroPort where
  select : BitVec 4
  A : Fp
  B : Fp
deriving DecidableEq, Repr

/-- The state of the machine: the tuple of 10_state.md with the configuration `C` (R34), the Actuator
Channels (R204), the result bus `Y` and the micro-operation port `uop` (R91), the position of an interrupted access (R41), and the model's own
`tx`, `events`, `inputs` and `draws`. The port `uop` is `none` between any two steps of a run: the block's own
sequencing presents a micro-operation and completes it within one TICK or ENABLE, nothing else invokes one
(R91, R112, R147), and no step puts one there. Only the placing of an instruction does (log 10, log 15). -/
structure State where
  J : PerJoint JointState
  P : PerJoint PidState
  MEN : Bool
  GRIP : Grip
  DPH : DispatcherPhase
  C : Configuration
  ACT : PerJoint ActuatorState
  Y : Fp
  uop : Option MicroPort
  burst : List Access
  tx : List Byte
  events : List Event
  inputs : List Input
  draws : Nat
deriving DecidableEq, Repr

/-- Actuator constants of the reset configuration: zeros and a `cmd_max` of 1.0 (DESIGN CHOICE, log 12). -/
def ActuatorConstants.atReset : ActuatorConstants :=
  ⟨Fp.zero, Fp.zero, Fp.one, Fp.zero, Fp.zero⟩

/-- The parameters of the reset configuration: Configuration B of 95_test_vectors.md, at the reference
rate of 100 Hz (DESIGN CHOICE, log 6: the source gives no gain, bound, limit or home offset). -/
def Parameters.atReset : Parameters where
  F := 0x42C80000#32
  kp := ⟨0x3F4CCCCD#32, 0x3FC00000#32, 0x3E99999A#32⟩
  ki := ⟨0x3DCCCCCD#32, 0x3D4CCCCD#32, 0x00000000#32⟩
  kd := ⟨0x3CA3D70A#32, 0x3C23D70A#32, 0x3BA3D70A#32⟩
  u_min := PerJoint.same 0xC0F00000#32
  u_max := PerJoint.same 0x40F00000#32
  min_angle := ⟨0xBFC00000#32, 0xBF000000#32, 0xBF800000#32⟩
  max_angle := ⟨0x3FC00000#32, 0x3FE00000#32, 0x40000000#32⟩
  home := PerJoint.same Fp.zero
  AW := .none
  SNAP := .guarded
  act := PerJoint.same ActuatorConstants.atReset

/-- The reset configuration is valid (R256). -/
theorem parameters_atReset_valid : Parameters.atReset.valid = true := by decide +kernel

/-- The configuration of `State.reset` (log 6). -/
def Configuration.atReset : Configuration := ⟨Parameters.atReset, parameters_atReset_valid⟩

/-- JointState after reset (R42). -/
def JointState.atReset : JointState := ⟨Fp.zero, Fp.zero, Fp.zero, Fp.zero, Fp.zero⟩

/-- PidState after reset, and after `PID.RESET` (R42, R111). -/
def PidState.atReset : PidState := ⟨Fp.zero, Fp.zero, true⟩

/-- The state after power-on with an injected configuration and the gripper in a given position (R42, R250,
R256, U4). -/
def State.powerOn (c : Configuration) (grip : Grip) : State where
  J := PerJoint.same JointState.atReset
  P := PerJoint.same PidState.atReset
  MEN := false
  GRIP := grip
  DPH := .waitOpcode
  C := c
  ACT := PerJoint.same ⟨false, Fp.zero⟩
  Y := Fp.zero
  uop := none
  burst := []
  tx := []
  events := []
  inputs := []
  draws := 0

/-- The machine right after reset (R42): the configuration is log 6's, the gripper log 8's. -/
def State.reset : State := State.powerOn Configuration.atReset .opened

end Sys2Proof.Machine
end

