-- ==== Sys2Proof/Machine/Ops.lean ====
section
/-! DEFINITION. The named operations over the state: field access (00_scope.md R13), the byte streams
(R14), free values, and the actuator channels' reaction to events (44_external_ports.md R204 to R208).
There is no exception to take and none to return from (60_exceptions.md R220, R224, R225): taking the one
interrupt is `tick` of Machine/ControlCycle.lean, which saves and restores nothing (D26). -/

namespace Sys2Proof.Machine

/-- `J[j] <- v`. -/
def State.setJ (s : State) (j : Joint) (v : JointState) : State := { s with J := s.J.set j v }

/-- `P[j] <- v`. -/
def State.setP (s : State) (j : Joint) (v : PidState) : State := { s with P := s.P.set j v }

/-- The state of the Actuator Channel of joint `j` takes the value `v`. -/
def State.setAct (s : State) (j : Joint) (v : ActuatorState) : State := { s with ACT := s.ACT.set j v }

/-- Reads an FP field of joint `j` (R13, R37). -/
def State.readField (s : State) (j : Joint) : FpField → Fp
  | .setpoint => (s.J.get j).setpoint
  | .angle => (s.J.get j).angle
  | .velocity => (s.J.get j).velocity
  | .voltage_cmd => (s.J.get j).voltage_cmd
  | .ui => (s.P.get j).ui
  | .error_prev => (s.P.get j).error_prev

/-- Writes an FP field of joint `j` (R13, R37). -/
def State.writeField (s : State) (j : Joint) (f : FpField) (v : Fp) : State :=
  match f with
  | .setpoint => s.setJ j { s.J.get j with setpoint := v }
  | .angle => s.setJ j { s.J.get j with angle := v }
  | .velocity => s.setJ j { s.J.get j with velocity := v }
  | .voltage_cmd => s.setJ j { s.J.get j with voltage_cmd := v }
  | .ui => s.setP j { s.P.get j with ui := v }
  | .error_prev => s.setP j { s.P.get j with error_prev := v }

/-- `TxBytes(bs)` (R14, D19): appends to the device-to-host stream; it never blocks and never fails. -/
def State.txBytes (s : State) (bs : List Byte) : State := { s with tx := s.tx ++ bs }

/-- The state after one free value has been drawn (log 5). -/
def State.drawn (s : State) : State := { s with draws := s.draws + 1 }

/-- `clamp` where the operand may be a NaN: the result is then any value (U1, log 3). The state is the one
after a free value was drawn, if one was. -/
def State.clampFree (s : State) (x lo hi : Fp) : Fp × State :=
  if Fp.isNaN x then (Config.freeFp s.draws, s.drawn) else (clamp x lo hi, s)

/-- The pulse width `set_cmd` computes before clamping: `offset + cmd * (pulse_range / cmd_max)` (R207,
DEDUCED to be evaluated in `FMT`, log 12). -/
def pulseOf (c : ActuatorConstants) (cmd : Fp) : Fp :=
  fadd c.offset (fmul cmd (fdiv c.pulse_range c.cmd_max))

/-- `set_cmd(cmd)` of the Actuator Channel of joint `j`: a no-op while disarmed (R207). -/
def State.setCmd (s : State) (j : Joint) (cmd : Fp) : State :=
  if (s.ACT.get j).armed then
    let c := s.C.act.get j
    let r := s.clampFree (pulseOf c cmd) c.pulse_min c.pulse_max
    r.2.setAct j ⟨true, r.1⟩
  else s

/-- What an event does to the collaborator it is sent to (R200): `ActEnable` arms the channel and behaves
as `set_cmd(0)` (R205), `ActDisable` zeroes the pulse width and disarms (R206), `ActSet` is `set_cmd`
(R207). The encoder's and the gripper's own state is not the model's (R201, R209, D16). -/
def State.react (s : State) : Event → State
  | .encRead _ => s
  | .actSet j v => s.setCmd j v
  | .actEnable j => (s.setAct j { s.ACT.get j with armed := true }).setCmd j Fp.zero
  | .actDisable j => s.setAct j ⟨false, Fp.zero⟩
  | .gripOpen => s
  | .gripClose => s

/-- `emit E(args)` (R15): the event joins the output stream and its collaborator reacts. -/
def State.emit (s : State) (e : Event) : State :=
  ({ s with events := s.events ++ [e] } : State).react e

/-- Emits events in the order written (R15). -/
def State.emitAll (s : State) (es : List Event) : State := es.foldl State.emit s

end Sys2Proof.Machine
end

