-- ==== Sys2Proof/Machine/Operands.lean ====
section
/-! DEFINITION. The operand forms that move data between the block and the outside: single bytes of an FP
field (20_memory.md R58), the GETSTATE payload (R51), and an Encoder Channel's answer
(44_external_ports.md R201). -/

namespace Sys2Proof.Machine

/-- The word `w` with its byte `i` replaced by byte `i` of `v` (R10). -/
def putByte (w : Fp) (i : Fin 4) (v : Fp) : Fp :=
  match i with
  | 0 => wordOfBytes (byteOf v 0) (byteOf w 1) (byteOf w 2) (byteOf w 3)
  | 1 => wordOfBytes (byteOf w 0) (byteOf v 1) (byteOf w 2) (byteOf w 3)
  | 2 => wordOfBytes (byteOf w 0) (byteOf w 1) (byteOf v 2) (byteOf w 3)
  | 3 => wordOfBytes (byteOf w 0) (byteOf w 1) (byteOf w 2) (byteOf v 3)

/-- Stores byte `i` of `v` into a field, leaving its other bytes (R58). -/
def State.storeByte (s : State) (j : Joint) (f : FpField) (i : Fin 4) (v : Fp) : State :=
  s.writeField j f (putByte (s.readField j f) i v)

/-- The four fields of a joint that GETSTATE sends, in payload order (R51). -/
def telemetryFields : List FpField := [.setpoint, .angle, .velocity, .voltage_cmd]

/-- The 48 payload bytes of GETSTATE (R51, R173): joint-major, each field least significant byte first. -/
def State.telemetry (s : State) : List Byte :=
  joints.flatMap fun j => telemetryFields.flatMap fun f => bytesOfWord (s.readField j f)

/-- `count = p[13:2]` of an Encoder Channel's register payload (R201): the two low bits are discarded. -/
def encoderCount (p : BitVec 14) : BitVec 12 := p.extractLsb 13 2

/-- `read_angle()` of the Encoder Channel of joint `j` on a register payload (R201). The response parity is
not verified (R202), so every payload is answered. The scaling is uninterpreted (log 17), and the answer is
finite, as R201 says it is for a finite home offset, which every valid configuration has (R8). -/
def State.readAngle (s : State) (j : Joint) (p : BitVec 14) : Fp :=
  Fp.finitePart (Config.encoderAngle (encoderCount p) (s.C.home.get j))

end Sys2Proof.Machine
end

