-- ==== Sys2Proof/Machine/Flags.lean ====
section
/-! DEFINITION. The flags. The block has two kinds, `MEN` (10_state.md R32) and `P[j].first` (R28, R33); no
operation computes a condition code, a carry or a saturation flag. Beside them, the strict "is saturated"
test that the anti-windup mode `freeze` consults and nothing records (40_pid.md R120, R118). -/

namespace Sys2Proof.Machine

/-- `MEN <- v` (R32). -/
def State.setMen (s : State) (v : Bool) : State := { s with MEN := v }

/-- `P[j].first <- v` (R28). -/
def State.setFirst (s : State) (j : Joint) (v : Bool) : State := s.setP j { s.P.get j with first := v }

/-- `sat` of R120: strictly outside the bounds; a NaN is not saturated. -/
def saturated (x lo hi : Fp) : Bool := flt x lo || fgt x hi

end Sys2Proof.Machine
end

