-- ==== Sys2Proof/Machine/PidController.lean ====
section
/-! DEFINITION. The PID controller (40_pid.md): `PID.RESET` (R111) and `PID.UPDATE` (R113, with the
`AW = freeze` variant of R120). -/

namespace Sys2Proof.Machine

/-- `PID.RESET j` (R111). -/
def pidReset (j : Joint) (s : State) : State := s.setP j PidState.atReset

/-- `up` (R114). -/
def pidUp (s : State) (j : Joint) (e : Fp) : Fp := fmul (s.C.kp.get j) e

/-- `ui_next = ui + (ki * e) * T` (R115). -/
def pidUiNext (s : State) (j : Joint) (e : Fp) : Fp :=
  fadd (s.P.get j).ui (fmul (fmul (s.C.ki.get j) e) s.C.T)

/-- `ud`, +0.0 on the first update after a reset (R116). -/
def pidUd (s : State) (j : Joint) (e : Fp) : Fp :=
  if (s.P.get j).first then Fp.zero
  else fdiv (fmul (s.C.kd.get j) (fsub e (s.P.get j).error_prev)) s.C.T

/-- `u_unsat = ((up + ui_next) + ud) + ff` (R117). -/
def pidUnsat (s : State) (j : Joint) (e ff : Fp) : Fp :=
  fadd (fadd (fadd (pidUp s j e) (pidUiNext s j e)) (pidUd s j e)) ff

/-- The accumulator `PID.UPDATE` stores: `ui_next`, or under `AW = freeze` the old one while `u_unsat` is
strictly outside the bounds (R115, R120, D4). -/
def pidUiStored (s : State) (j : Joint) (e ff : Fp) : Fp :=
  match s.C.AW with
  | .none => pidUiNext s j e
  | .freeze =>
    if saturated (pidUnsat s j e ff) (s.C.u_min.get j) (s.C.u_max.get j) then (s.P.get j).ui
    else pidUiNext s j e

/-- `PID.UPDATE j, e, ff` (R113): the result `u`, clamped (R118; any value if `u_unsat` is a NaN, U1), and
the state after it, in which `P[j]` is written (R119) and the bus `Y` carries `u` (R91, log 11). -/
def pidUpdate (j : Joint) (e ff : Fp) (s : State) : Fp × State :=
  let r := s.clampFree (pidUnsat s j e ff) (s.C.u_min.get j) (s.C.u_max.get j)
  (r.1, { r.2.setP j ⟨pidUiStored s j e ff, e, false⟩ with Y := r.1 })

/-- The micro-operation `PID.UPDATE j, e, ff` (R113). -/
def execPidUpdate (j : Joint) (e ff : Fp) (s : State) : Host.Outcome State Fault Refusal :=
  .next (pidUpdate j e ff s).2

/-- The micro-operation `PID.RESET j` (R111). -/
def execPidReset (j : Joint) (s : State) : Host.Outcome State Fault Refusal :=
  .next (pidReset j s)

end Sys2Proof.Machine
end

