-- ==== Sys2Proof/Machine/VelocityEstimator.lean ====
section
/-! DEFINITION. The velocity estimator (41_velocity.md). -/

namespace Sys2Proof.Machine

/-- `fmul(fsub(a, previous_angle), C.F)` (R141): the difference is scaled by the rate `F`, not divided by
`T` (R142); no first-sample case (R144) and no unwrapping (R145). -/
def velocityOf (s : State) (j : Joint) (a : Fp) : Fp :=
  fmul (fsub a (s.J.get j).previous_angle) s.C.F

/-- `VEL.SAMPLE j, a` (R141). -/
def velSample (j : Joint) (a : Fp) (s : State) : State :=
  s.setJ j { s.J.get j with angle := a, velocity := velocityOf s j a, previous_angle := a }

/-- The micro-operation `VEL.SAMPLE j, a` (R141). -/
def execVelSample (j : Joint) (a : Fp) (s : State) : Host.Outcome State Fault Refusal :=
  .next (velSample j a s)

end Sys2Proof.Machine
end

