-- ==== Sys2Proof/Machine/ControlCycle.lean ====
section
/-! DEFINITION. The control cycle (42_control_cycle.md R150): taking the timer interrupt. It saves no state
and restores none (60_exceptions.md R224, R225), so its whole effect is the three joints' work. -/

namespace Sys2Proof.Machine

/-- The error of joint `j`: setpoint minus the angle just sampled (R153). -/
def jointError (s : State) (j : Joint) : Fp := fsub (s.J.get j).setpoint (s.J.get j).angle

/-- The enabled path of one joint, after its sample (R153): one `PID.UPDATE` with feed-forward +0.0, its
result stored in `voltage_cmd` and sent to the Actuator Channel. -/
def servoJoint (j : Joint) (s : State) : State :=
  let r := pidUpdate j (jointError s j) Fp.zero s
  (r.2.writeField j .voltage_cmd r.1).emit (.actSet j r.1)

/-- The work of one TICK for joint `j` with the encoder answer `a` (R150): sample always (R147), servo only
when `MEN` (R152). -/
def tickJoint (j : Joint) (a : Fp) (s : State) : State :=
  let s1 := velSample j a (s.emit (.encRead j))
  if s1.MEN then servoJoint j s1 else s1

/-- `TICK(a_in)` (R150): joints 0, 1, 2 in this order (R151), each completed before the next. -/
def tick (a_in : PerJoint Fp) (s : State) : State :=
  tickJoint 2 a_in.j2 (tickJoint 1 a_in.j1 (tickJoint 0 a_in.j0 s))

/-- A TICK whose encoder answers no input lists: they are drawn free (R155, U7; log 4). -/
def freeTick (s : State) : State :=
  tick ⟨Config.freeFp s.draws, Config.freeFp (s.draws + 1), Config.freeFp (s.draws + 2)⟩
    { s with draws := s.draws + 3 }

/-- A TICK whose answers the Encoder Channels compute from their register payloads (R201). -/
def payloadTick (p : PerJoint (BitVec 14)) (s : State) : State :=
  tick ⟨s.readAngle 0 p.j0, s.readAngle 1 p.j1, s.readAngle 2 p.j2⟩ s

end Sys2Proof.Machine
end

