-- ==== Sys2Proof/Machine/Burst.lean ====
section
/-! DEFINITION. The accesses of a host command under `SNAP = unguarded` (20_memory.md R58, U5; log 13): the
foreground context makes them one at a time, and a TICK may fall between any two. -/

namespace Sys2Proof.Machine

/-- The four bytes of a word, all still to be stored. -/
def allBytes : List (Fin 4) := [0, 1, 2, 3]

/-- The byte an open choice `pick` takes from those still to be stored. -/
def chosenByte (left : List (Fin 4)) (pick : Nat) : Fin 4 := left.getD (pick % left.length) 0

/-- Makes one access: the state after it, and what is left of the access (the bytes of a store that have not
been stored yet). -/
def Access.perform (pick : Nat) (a : Access) (s : State) : State × List Access :=
  match a with
  | .store _ _ _ [] => (s, [])
  | .store j f w (b :: bs) =>
    let i := chosenByte (b :: bs) pick
    let left := (b :: bs).erase i
    (s.storeByte j f i w, if left.isEmpty then [] else [.store j f w left])
  | .send j f i => (s.txBytes [byteOf (s.readField j f) i], [])
  | .setFirst j => (s.setFirst j true, [])
  | .setMen v => (s.setMen v, [])
  | .setGrip g => ({ s with GRIP := g }, [])
  | .emit e => (s.emit e, [])
  | .endPayload => ({ s with DPH := .waitOpcode }, [])

/-- The foreground context runs once: it makes one access of the command in progress; with none in progress
it waits in its blocking read and nothing changes (R180; log 19). -/
def foreground (pick : Nat) (s : State) : State :=
  match s.burst with
  | [] => s
  | a :: rest =>
    let r := a.perform pick s
    { r.1 with burst := r.2 ++ rest }

/-- A host command begins its accesses (R58). -/
def State.startBurst (s : State) (accesses : List Access) : State :=
  { s with burst := s.burst ++ accesses }

/-- Stores the whole word `w` into a field. -/
def storeAll (j : Joint) (f : FpField) (w : Fp) : Access := .store j f w allBytes

end Sys2Proof.Machine
end

