-- ==== Sys2Proof/Machine/HostCommands.lean ====
section
/-! DEFINITION. The six host commands (43_host_commands.md). Each has its effect at one instant, which is
its meaning under `SNAP = guarded` (20_memory.md R59, D8), and the same effect as a list of accesses, which
the foreground context makes one by one under `SNAP = unguarded` (R58, U5; log 13). -/

namespace Sys2Proof.Machine

/-- A host command's outcome: its burst at one instant under `guarded`, the start of its accesses under
`unguarded`. -/
def runCommand (atOnce : State → State) (accesses : List Access) (s : State) :
    Host.Outcome State Fault Refusal :=
  match s.C.SNAP with
  | .guarded => .next (atOnce s)
  | .unguarded => .next (s.startBurst accesses)

/-- ENABLE at one instant (R171). -/
def enableAtOnce (s : State) : State :=
  (joints.foldl (fun t j => pidReset j t) (s.setMen true)).emitAll (joints.map .actEnable)

/-- The accesses of ENABLE in order (R171, R111). -/
def enableAccesses : List Access :=
  [.setMen true]
    ++ joints.flatMap (fun j => [storeAll j .ui Fp.zero, storeAll j .error_prev Fp.zero, .setFirst j])
    ++ joints.map (fun j => .emit (.actEnable j))

/-- DISABLE at one instant (R172). -/
def disableAtOnce (s : State) : State :=
  let t := (joints.foldl (fun t j => t.writeField j .voltage_cmd Fp.zero) (s.setMen false)).emitAll
    (joints.map .actDisable)
  ({ t with GRIP := .opened } : State).emit .gripOpen

/-- The accesses of DISABLE in order (R172). -/
def disableAccesses : List Access :=
  [.setMen false] ++ joints.map (fun j => storeAll j .voltage_cmd Fp.zero)
    ++ joints.map (fun j => .emit (.actDisable j)) ++ [.setGrip .opened, .emit .gripOpen]

/-- GETSTATE at one instant (R173): 48 bytes sent, nothing of the block written. -/
def getstateAtOnce (s : State) : State := s.txBytes s.telemetry

/-- The accesses of GETSTATE in order (R173, U5). Each byte is sent in the access that reads it: a choice of the
model's, for R173's one `TxBytes` after all reads and D19's one step are reasoned under `guarded`, and N16 leaves
the moment of sending open for the reference design (DESIGN CHOICE, log 13). -/
def getstateAccesses : List Access :=
  joints.flatMap fun j => telemetryFields.flatMap fun f => allBytes.map fun i => .send j f i

/-- The clamped setpoint of joint `j` (R176), any value for a NaN (U1). -/
def clampSetpoint (s : State) (j : Joint) (w : Fp) : Fp × State :=
  s.clampFree w (s.C.min_angle.get j) (s.C.max_angle.get j)

/-- The three clamped setpoints of a SETPOINT (R175, R176), and the state after the free values they drew. -/
def clampSetpoints (sp0 sp1 sp2 : Fp) (s : State) : PerJoint Fp × State :=
  let r0 := clampSetpoint s 0 sp0
  let r1 := clampSetpoint r0.2 1 sp1
  let r2 := clampSetpoint r1.2 2 sp2
  (⟨r0.1, r1.1, r2.1⟩, r2.2)

/-- Stores the three setpoints at one instant (R175). -/
def storeSetpoints (v : PerJoint Fp) (s : State) : State :=
  joints.foldl (fun t j => t.writeField j .setpoint (v.get j)) s

/-- The stores of SETPOINT in order (R58, R175). -/
def setpointAccesses (v : PerJoint Fp) : List Access :=
  joints.map fun j => storeAll j .setpoint (v.get j)

/-- The gripper takes a position and the event is emitted (R177, R178). -/
def gripAtOnce (g : Grip) (e : Event) (s : State) : State := ({ s with GRIP := g } : State).emit e

/-- ENABLE (R171). -/
def execEnable (s : State) : Host.Outcome State Fault Refusal :=
  runCommand enableAtOnce enableAccesses s

/-- DISABLE (R172). -/
def execDisable (s : State) : Host.Outcome State Fault Refusal :=
  runCommand disableAtOnce disableAccesses s

/-- GETSTATE (R173). -/
def execGetstate (s : State) : Host.Outcome State Fault Refusal :=
  runCommand getstateAtOnce getstateAccesses s

/-- SETPOINT sp0, sp1, sp2: `SETPOINT.commit`, run when the twelfth payload byte has arrived (R174, R175). -/
def execSetpoint (sp0 sp1 sp2 : Fp) (s : State) : Host.Outcome State Fault Refusal :=
  let r := clampSetpoints sp0 sp1 sp2 s
  runCommand (storeSetpoints r.1) (setpointAccesses r.1) r.2

/-- GRIPOPEN (R177). -/
def execGripopen (s : State) : Host.Outcome State Fault Refusal :=
  runCommand (gripAtOnce .opened .gripOpen) [.setGrip .opened, .emit .gripOpen] s

/-- GRIPCLOSE (R178). -/
def execGripclose (s : State) : Host.Outcome State Fault Refusal :=
  runCommand (gripAtOnce .closed .gripClose) [.setGrip .closed, .emit .gripClose] s

end Sys2Proof.Machine
end

