-- ==== Sys2Proof/Machine/Dispatch.lean ====
section
/-! DEFINITION. One arm per instruction of spec/opcode_table.json. -/

namespace Sys2Proof.Machine

/-- The meaning of each instruction. -/
def exec (i : Instr) (s : State) : Host.Outcome State Fault Refusal :=
  match i with
  | .enable => Sys2Proof.Machine.execEnable s
  | .disable => Sys2Proof.Machine.execDisable s
  | .getstate => Sys2Proof.Machine.execGetstate s
  | .setpoint sp0 sp1 sp2 => Sys2Proof.Machine.execSetpoint sp0 sp1 sp2 s
  | .gripopen => Sys2Proof.Machine.execGripopen s
  | .gripclose => Sys2Proof.Machine.execGripclose s
  | .velSample j a => Sys2Proof.Machine.execVelSample j a s
  | .pidUpdate j e ff => Sys2Proof.Machine.execPidUpdate j e ff s
  | .pidReset j => Sys2Proof.Machine.execPidReset j s

end Sys2Proof.Machine
end

