-- ==== Sys2Proof/Machine/Ports.lean ====
section
/-! DEFINITION. What one input at the block's ports does (30_encoding.md R93): the dispatcher step on a
received byte (43_host_commands.md R170), power-on (R42, R250); what a micro-operation select word does
(R91, R92); and the placing of one instruction where the step takes its next one. -/

namespace Sys2Proof.Machine

/-- `DPH <- WaitOpcode`, which R170 writes after `SETPOINT.commit`: in the same instant under `guarded`, and under
`unguarded` as the command's last access, after its stores, since writes happen in the order written (R13). -/
def endPayload (s : State) : Host.Outcome State Fault Refusal :=
  runCommand (fun t => { t with DPH := .waitOpcode }) [.endPayload] s

/-- The twelfth payload byte: `SETPOINT.commit(buf'); DPH <- WaitOpcode` (R170, R175). -/
def commitPayload (i : Instr) (s : State) : Host.Outcome State Fault Refusal :=
  match exec i s with
  | .next t => endPayload t
  | .fault f => .fault f
  | .refused r => .refused r

/-- `DispatcherStep(b)` (R170), the byte already taken from the input. In phase WaitOpcode the byte is an
opcode: a one-byte command runs, 0x04 opens the payload phase, any other byte changes nothing (R179). In
phase RxSetpoint the byte is payload whatever its value (R31, R66): the twelfth commits the
command. Until `DPH` is written it keeps the eleven bytes received before the twelfth. -/
def dispatcherStep (b : Byte) (s : State) : Host.Outcome State Fault Refusal :=
  match s.DPH with
  | .waitOpcode =>
    match decode [b] with
    | .instr i _ => exec i s
    | .incomplete => .next { s with DPH := .rxSetpoint [] }
    | .unrecognised _ _ => .next s
  | .rxSetpoint buf =>
    if buf.length + 1 < 12 then .next { s with DPH := .rxSetpoint (buf ++ [b]) }
    else
      match decode (0x04#8 :: (buf ++ [b])) with
      | .instr i _ => commitPayload i s
      | .incomplete => .next { s with DPH := .waitOpcode }
      | .unrecognised _ _ => .next { s with DPH := .waitOpcode }

/-- The micro-operation that the port holds (R91); the reserved patterns are refused (R92). -/
def microStep (m : MicroPort) (s : State) : Host.Outcome State Fault Refusal :=
  match decodeMicro m.select m.A m.B with
  | some i => exec i s
  | none => .refused (.reservedMicroOp m.select)

/-- Power-on with an injected configuration (R42, R250, R256): refused if it is not valid (R8, U2, U3). The
inputs to come, the output histories and the free-value counter, which are the model's own, stay
(log 16). -/
def powerOnStep (cfg : Parameters) (grip : Grip) (s : State) : Host.Outcome State Fault Refusal :=
  if h : cfg.valid = true then
    .next { State.powerOn ⟨cfg, h⟩ grip with inputs := s.inputs, tx := s.tx, events := s.events, draws := s.draws }
  else .refused .invalidConfiguration

/-- One step on the inputs to come: a TICK, a dispatcher step (R61), an access of the foreground context (R58)
or a power-on, and nothing else; no input invokes a micro-operation (R91, R112, R147). A byte that arrives while the foreground context still makes
accesses waits, and the next access is made (R64; log 13). With no input listed the next access is made, or,
with none pending, the always enabled TICK runs with free answers (R223; log 4). -/
def stepInputs (s : State) : Host.Outcome State Fault Refusal :=
  match s.inputs with
  | [] =>
    match s.burst with
    | [] => .next (freeTick s)
    | _ :: _ => .next (foreground 0 s)
  | .tick a_in :: rest => .next (tick a_in { s with inputs := rest })
  | .tickPayload p :: rest => .next (payloadTick p { s with inputs := rest })
  | .rx b :: rest =>
    match s.burst with
    | [] => dispatcherStep b { s with inputs := rest }
    | _ :: _ => .next (foreground 0 s)
  | .foreground pick :: rest => .next (foreground pick { s with inputs := rest })
  | .rst cfg grip :: rest => powerOnStep cfg grip { s with inputs := rest }

/-- One step. The micro-operation port is empty in every run, and the step then takes the next input; a select
word placed on the port runs first and leaves it empty (log 10). -/
def stepOnce (s : State) : Host.Outcome State Fault Refusal :=
  match s.uop with
  | some m => microStep m { s with uop := none }
  | none => stepInputs s

/-- The phase in which a command's last byte is awaited, the earlier ones received. -/
def phaseBeforeLast : List Byte → DispatcherPhase
  | [] => .waitOpcode
  | _ :: payload => .rxSetpoint payload

/-- Places a code so that the very next step runs it: a select word on the micro-operation port; a host
command as its last byte, the bytes before it already received (R31, R175; log 15). -/
def State.place (s : State) : Code → State
  | .micro uop A B => { s with uop := some ⟨uop, A, B⟩ }
  | .host bytes =>
    { s with
      DPH := phaseBeforeLast bytes.dropLast
      uop := none
      burst := []
      inputs := .rx (bytes.getLastD 0x00#8) :: s.inputs }

end Sys2Proof.Machine
end

