-- ==== Sys2Proof/Machine/Step.lean ====
section
/-! DEFINITION. The step of the machine and the placing of its next instruction; both call
Machine/Ports.lean. -/

namespace Sys2Proof.Machine

/-- One step of the total order of 20_memory.md R61. -/
def step (s : State) : Host.Outcome State Fault Refusal := stepOnce s

/-- `s` with the instruction of `nbits` bits and value `w` placed where the next step takes it. -/
def State.withFetchWord (s : State) (nbits w : Nat) : State := s.place (codeOfTableWord nbits w)

end Sys2Proof.Machine
end

