-- ==== Sys2Proof/Safety.lean ====
section
/-! DEFINITION. The terms in which claims speak of a safe state and a safe step: the spec's own invariants
(10_state.md R28, R31, R32, R39, R40; 30_encoding.md R91; 43_host_commands.md R182; 44_external_ports.md
R206), what correctly rounded means (00_scope.md R11), and the length of an unguarded command (20_memory.md R58). -/

namespace Sys2Proof.Machine

/-- `DPH` holds at most 11 payload bytes (R31). -/
def PhaseInRange (s : State) : Prop := ∀ buf, s.DPH = .rxSetpoint buf → buf.length ≤ 11

/-- In state Reset the accumulator and the error history are +0.0 (R28). -/
def ResetMeansZero (s : State) : Prop :=
  ∀ j, (s.P.get j).first = true → (s.P.get j).ui = Fp.zero ∧ (s.P.get j).error_prev = Fp.zero

/-- Every Actuator Channel is armed exactly when motors are enabled (R182, R204, R205, R206). -/
def GateFollowsMen (s : State) : Prop := ∀ j, (s.ACT.get j).armed = s.MEN

/-- With motors disabled every voltage command is +0.0 (R32, C7). -/
def DisabledMeansZero (s : State) : Prop := s.MEN = false → ∀ j, (s.J.get j).voltage_cmd = Fp.zero

/-- A disarmed channel's pulse width is zero (R204, R206). -/
def DisarmedMeansNoPulse (s : State) : Prop := ∀ j, (s.ACT.get j).armed = false → (s.ACT.get j).pulse = Fp.zero

/-- No micro-operation is presented between two steps: the block's own sequencing completes each one it presents
(R91, R112, R147; log 10). -/
def NoMicroOperationPending (s : State) : Prop := s.uop = none

/-- What holds in every state between two steps. Four parts are promised under `guarded` alone: under
`unguarded` a TICK between two accesses breaks each of them for a while (R58, U5). -/
def Inv (s : State) : Prop :=
  NoMicroOperationPending s ∧ PhaseInRange s ∧ DisarmedMeansNoPulse s ∧
    (s.C.SNAP = .guarded → s.burst = [] ∧ ResetMeansZero s ∧ GateFollowsMen s ∧ DisabledMeansZero s)

/-- The setpoint of joint `j` is within its limits (R39). -/
def SetpointInRange (s : State) (j : Joint) : Prop :=
  Fp.le (s.C.min_angle.get j) (s.J.get j).setpoint = true ∧ Fp.le (s.J.get j).setpoint (s.C.max_angle.get j) = true

/-- The operand of joint `j` in a SETPOINT. -/
def setpointOperand (sp0 sp1 sp2 : Fp) (j : Joint) : Fp := (PerJoint.mk sp0 sp1 sp2).get j

/-- The next step does not complete a SETPOINT whose value for joint `j` is a NaN (the exception of R39). -/
def NoNaNCommit (s : State) (j : Joint) : Prop :=
  ∀ buf b rest sp0 sp1 sp2 more, s.DPH = .rxSetpoint buf → s.inputs = .rx b :: rest →
    decode (0x04#8 :: (buf ++ [b])) = .instr (.setpoint sp0 sp1 sp2) more →
    Fp.isNaN (setpointOperand sp0 sp1 sp2 j) = false

/-- The next input is power-on. -/
def NextIsPowerOn (s : State) : Prop := ∃ cfg grip rest, s.inputs = .rst cfg grip :: rest

/-- The next step on the inputs is a TICK: one is listed, or none is and no access is pending (R223; log 4). -/
def TakesTick (s : State) : Prop :=
  (s.inputs = [] ∧ s.burst = []) ∨ (∃ a rest, s.inputs = .tick a :: rest) ∨
    (∃ p rest, s.inputs = .tickPayload p :: rest)

/-- The next step on the inputs receives ENABLE: the byte 0x01 in phase WaitOpcode, no access pending (R171). -/
def TakesEnable (s : State) : Prop :=
  s.burst = [] ∧ s.DPH = .waitOpcode ∧ ∃ rest, s.inputs = .rx 0x01#8 :: rest

/-- The greatest finite binary32 magnitude in units of 2^-149 (R87). -/
def maxFiniteUnits : Nat := (2 ^ 24 - 1) * 2 ^ 253

/-- The exact value num / den is below the midpoint above the greatest finite magnitude. -/
def BelowOverflow (num : Int) (den : Nat) : Prop := 2 * num.natAbs < (2 * maxFiniteUnits + 2 ^ 253) * den

/-- `r` is num / den units of 2^-149 correctly rounded to binary32, ties to even (R11). Below overflow `r` is
finite, at least as near as every other finite value, and even if another is equally near; from there on
it is the infinity of the exact value's sign. -/
def CorrectlyRounded (num : Int) (den : Nat) (r : Fp) : Prop :=
  (BelowOverflow num den → Fp.isFinite r = true ∧
    ∀ y, Fp.isFinite y = true →
      (Fp.value r * den - num).natAbs ≤ (Fp.value y * den - num).natAbs ∧
      ((Fp.value r * den - num).natAbs = (Fp.value y * den - num).natAbs → Fp.value y ≠ Fp.value r →
        Fp.frac r % 2 = 0)) ∧
  (¬ BelowOverflow num den → r = Fp.inf (decide (num < 0)))

/-- How many runs of the foreground context an access takes: a store takes one for each byte. -/
def Access.size : Access → Nat
  | .store _ _ _ left => left.length
  | .send _ _ _ => 1
  | .setFirst _ => 1
  | .setMen _ => 1
  | .setGrip _ => 1
  | .emit _ => 1
  | .endPayload => 1

/-- How many runs of the foreground context complete the pending accesses. -/
def burstSize (accesses : List Access) : Nat := (accesses.map Access.size).sum

end Sys2Proof.Machine
end

