-- ==== Sys2Proof/Certificates/Slice0/Obligations.lean ====
section
/-! DEFINITION. The statements about the machine, from the numbered rules of spec/. The premise `s.uop = none` of
statements about a step is an invariant of every run: it is part of `Inv` and the first clause of
MicroOperationsRunInTheBlocksSequencingAlone. -/

open Sys2Proof Sys2Proof.Machine

section Encoding

/-- Every instruction encodes to a well-formed code that decodes to it; a host command is read back from the
front of any byte stream, leaving the bytes after it (R81 to R83, R86, R91). -/
def Obligations.DecodingAnEncodedInstructionGivesItBack : Prop :=
  ∀ i : Instr, i.wellFormed = true →
    (encode i).wellFormed = true ∧ decodeCode (encode i) = some i ∧
      ∀ bytes rest, encode i = .host bytes → decode (bytes ++ rest) = .instr i rest

/-- R84: the opcode byte alone fixes the length of the command. -/
def Obligations.OpcodeByteFixesCommandLength : Prop :=
  ∀ (b : Byte) (bs : List Byte),
    (b ≠ 0x04#8 → (∃ i, decode (b :: bs) = .instr i bs) ∨ decode (b :: bs) = .unrecognised b bs) ∧
    (b = 0x04#8 →
      (bs.length < 12 → decode (b :: bs) = .incomplete) ∧
      (12 ≤ bs.length →
        ∃ sp0 sp1 sp2, decode (b :: bs) = .instr (.setpoint sp0 sp1 sp2) (bs.drop 12)))

/-- R86: a float32 operand and its four bytes determine each other, least significant byte first. -/
def Obligations.FloatOperandAndItsBytesAgree : Prop :=
  (∀ w : Fp, wordOfBytes (byteOf w 0) (byteOf w 1) (byteOf w 2) (byteOf w 3) = w) ∧
  (∀ b0 b1 b2 b3 : Byte,
    bytesOfWord (wordOfBytes b0 b1 b2 b3) = [b0, b1, b2, b3] ∧
    (wordOfBytes b0 b1 b2 b3).toNat =
      b0.toNat + 256 * b1.toNat + 65536 * b2.toNat + 16777216 * b3.toNat)

/-- R85, R91: a few words written out from the opcode map and the select-word table decode to their rows. -/
def Obligations.WrittenWordsDecodeToTheirRows : Prop :=
  decode [0x01#8] = .instr .enable [] ∧
  decode [0x03#8, 0x02#8] = .instr .getstate [0x02#8] ∧
  decode [0x04#8, 0x00#8, 0x00#8, 0x00#8, 0x3F#8, 0x00#8, 0x00#8, 0xC0#8, 0xBF#8, 0x00#8, 0x00#8, 0x80#8, 0x3F#8] =
    .instr (.setpoint 0x3F000000#32 0xBFC00000#32 0x3F800000#32) [] ∧
  decodeMicro 0b0010#4 0x3F400000#32 0x00000000#32 = some (.velSample 2 0x3F400000#32) ∧
  decodeMicro 0b0101#4 0x3F800000#32 0x40000000#32 = some (.pidUpdate 1 0x3F800000#32 0x40000000#32) ∧
  decodeMicro 0b1010#4 0x00000000#32 0x00000000#32 = some (.pidReset 2)

/-- R92, U9: a select word is refused exactly when it is one of the seven reserved patterns. That a select word
stands on the micro-operation port between two steps is the model's own convention (log 10). -/
def Obligations.ReservedSelectWordsAreRefused : Prop :=
  ∀ (s : State) (w : BitVec 4) (A B : Fp), s.uop = some ⟨w, A, B⟩ →
    (w ∈ [0b0011#4, 0b0111#4, 0b1011#4, 0b1100#4, 0b1101#4, 0b1110#4, 0b1111#4] →
      step s = .refused (.reservedMicroOp w)) ∧
    (w ∉ [0b0011#4, 0b0111#4, 0b1011#4, 0b1100#4, 0b1101#4, 0b1110#4, 0b1111#4] → ∃ t, step s = .next t)

end Encoding

section Steps

/-- The step runs the instruction its next input decodes to: a one-byte command in phase WaitOpcode (R170), and
SETPOINT at its twelfth payload byte (R170, R175). The step takes the input from the list; after a SETPOINT it
adds the write `DPH <- WaitOpcode` (R170, R13), at once under `guarded`, and under `unguarded` as one more access
after those of the command; that a command is a list of accesses there, SETPOINT's after the twelfth byte, is the
model's choice (log 13, log 14, DESIGN CHOICE). The third clause is the model's own convention (log 10,
DESIGN CHOICE), no rule of the spec: a select word that has been placed on the micro-operation port runs as the
next step. In no run does one stand there, for only the block's own sequencing invokes a micro-operation. -/
def Obligations.StepRunsTheDecodedInstruction : Prop :=
  (∀ (s : State) (b : Byte) (rest : List Input) (i : Instr) (more : List Byte),
    s.uop = none → s.inputs = .rx b :: rest → s.burst = [] → s.DPH = .waitOpcode →
    decode [b] = .instr i more →
      step s = exec i { s with inputs := rest }) ∧
  (∀ (s : State) (b : Byte) (rest : List Input) (buf : List Byte) (i : Instr) (more : List Byte),
    s.uop = none → s.inputs = .rx b :: rest → s.burst = [] → s.DPH = .rxSetpoint buf → buf.length = 11 →
    decode (0x04#8 :: (buf ++ [b])) = .instr i more →
      ∃ t, exec i { s with inputs := rest } = .next t ∧
        (s.C.SNAP = .guarded → step s = .next { t with DPH := .waitOpcode }) ∧
        (s.C.SNAP = .unguarded → step s = .next { t with burst := t.burst ++ [.endPayload] })) ∧
  (∀ (s : State) (w : BitVec 4) (A B : Fp) (i : Instr),
    s.uop = some ⟨w, A, B⟩ → decodeMicro w A B = some i → step s = exec i { s with uop := none })

/-- The model's own placing of an instruction (log 15): the step after it runs exactly that instruction. Under
`unguarded` a SETPOINT's accesses are then pending, and after them the write of the dispatcher phase, which still
holds the eleven bytes placed (R170, R13; log 13, log 14). -/
def Obligations.PlacedInstructionRunsNext : Prop :=
  ∀ (s : State) (i : Instr),
    (∀ bytes, encode i = .host bytes →
      (bytes.length = 1 ∨ s.C.SNAP = .guarded →
        step (s.place (encode i)) = exec i { s with DPH := .waitOpcode, uop := none, burst := [] }) ∧
      (bytes.length ≠ 1 → s.C.SNAP = .unguarded →
        ∃ t, exec i { s with DPH := .waitOpcode, uop := none, burst := [] } = .next t ∧
          step (s.place (encode i)) = .next { t with
            DPH := .rxSetpoint bytes.dropLast.tail, burst := t.burst ++ [.endPayload] })) ∧
    (∀ w A B, encode i = .micro w A B → step (s.place (encode i)) = exec i { s with uop := none })

/-- R179: in phase WaitOpcode a byte other than 0x01..0x06 is consumed and changes nothing. -/
def Obligations.UnrecognisedByteChangesNothing : Prop :=
  ∀ (s : State) (b : Byte) (rest : List Input),
    s.uop = none → s.inputs = .rx b :: rest → s.burst = [] → s.DPH = .waitOpcode →
    (b = 0x00#8 ∨ 0x07#8 ≤ b) →
      step s = .next { s with inputs := rest }

/-- R31, R66: in the payload phase a byte is data whatever its value, and before the twelfth only `DPH`
changes (R175); the opcode 0x04 opens the phase with an empty buffer. -/
def Obligations.PayloadBytesAreNeverOpcodes : Prop :=
  (∀ (s : State) (rest : List Input),
    s.uop = none → s.inputs = .rx 0x04#8 :: rest → s.burst = [] → s.DPH = .waitOpcode →
      step s = .next { s with inputs := rest, DPH := .rxSetpoint [] }) ∧
  (∀ (s : State) (b : Byte) (rest : List Input) (buf : List Byte),
    s.uop = none → s.inputs = .rx b :: rest → s.burst = [] → s.DPH = .rxSetpoint buf → buf.length < 11 →
      step s = .next { s with inputs := rest, DPH := .rxSetpoint (buf ++ [b]) })

/-- The thirteen bytes of a SETPOINT, received one a step. Under `guarded` they have the effect of the decoded
instruction at the last (R170, R174, R175). Under `unguarded` its accesses are pending after the last (log 13; that
they come after the twelfth byte is log 14's choice), with the write of `DPH` behind them (R170, R13), which still
holds eleven bytes; and if no TICK interrupts the thirteen runs of the foreground context they take, the end is
the very state the guarded command ends in. -/
def Obligations.ThirteenBytesRunOneSetpoint : Prop :=
  ∀ (s : State) (payload : List Byte) (rest : List Input),
    s.uop = none → s.burst = [] → s.DPH = .waitOpcode → payload.length = 12 →
    s.inputs = (0x04#8 :: payload).map Input.rx ++ rest →
      ∃ sp0 sp1 sp2, decode (0x04#8 :: payload) = .instr (.setpoint sp0 sp1 sp2) [] ∧
        (s.C.SNAP = .guarded →
          Sys2Proof.core.run 13 s = exec (.setpoint sp0 sp1 sp2) { s with inputs := rest }) ∧
        (s.C.SNAP = .unguarded →
          (∃ t, exec (.setpoint sp0 sp1 sp2) { s with inputs := rest } = .next t ∧
            Sys2Proof.core.run 13 s = .next { t with
              DPH := .rxSetpoint (payload.take 11), burst := t.burst ++ [.endPayload] }) ∧
          ∀ (c : Configuration) (picks : List Nat) (g : State),
            c.toParameters = { s.C.toParameters with SNAP := .guarded } →
            picks.length = 13 → rest = picks.map Input.foreground →
            exec (.setpoint sp0 sp1 sp2) { s with C := c, inputs := [] } = .next g →
              Sys2Proof.core.run 26 s = .next { g with C := s.C })

/-- R220, R156: from every state the step answers a next state, but for a reserved select word on the
micro-operation port (R92, log 10) and a power-on with a configuration that is not valid (R8), which it refuses by name. -/
def Obligations.StepAnswersNextButForTwoRefusals : Prop :=
  ∀ s : State,
    (∃ t, step s = .next t) ∨
    (∃ w A B, s.uop = some ⟨w, A, B⟩ ∧ decodeMicro w A B = none ∧
      step s = .refused (.reservedMicroOp w)) ∨
    (∃ cfg grip rest, s.uop = none ∧ s.inputs = .rst cfg grip :: rest ∧ cfg.valid = false ∧
      step s = .refused .invalidConfiguration)

/-- R7, R34, D25: no step but a power-on changes the configuration. -/
def Obligations.ConfigurationNeverChanges : Prop :=
  ∀ s t : State, ¬ NextIsPowerOn s → step s = .next t → t.C = s.C

/-- The invariant of Safety.lean (R28, R31, R32, R91, R182, R204, R206) is kept by every step from every state
that has it. -/
def Obligations.EveryStepKeepsTheInvariant : Prop :=
  ∀ s t : State, Inv s → step s = .next t → Inv t

/-- The invariant holds after power-on with any valid configuration and any gripper position, and at
`State.reset`. R42 gives the values its clauses rest on, but for two that are the model's: that a disarmed
channel's pulse width is +0.0 after power-on (log 12, DESIGN CHOICE) and that the micro-operation port is then
empty (log 10, DESIGN CHOICE). -/
def Obligations.InvariantHoldsAfterReset : Prop :=
  (∀ (c : Configuration) (grip : Grip), Inv (State.powerOn c grip)) ∧ Inv State.reset

/-- R42: the table of values after reset, for every injected configuration and every gripper position (U4);
`State.reset` is one of these states. The port `rst` gives that state and keeps the model's own inputs,
output histories and counter (log 16); a configuration that is not valid is refused (R8, U2, U3). -/
def Obligations.PowerOnGivesTheResetTable : Prop :=
  (∀ (c : Configuration) (grip : Grip) (j : Joint),
    let s := State.powerOn c grip
    s.J.get j = ⟨0#32, 0#32, 0#32, 0#32, 0#32⟩ ∧ s.P.get j = ⟨0#32, 0#32, true⟩ ∧ s.MEN = false ∧
      s.GRIP = grip ∧ s.DPH = .waitOpcode ∧ s.C = c ∧ (s.ACT.get j).armed = false) ∧
  (∃ c grip, State.reset = State.powerOn c grip) ∧
  (∀ (s : State) (c : Configuration) (grip : Grip) (rest : List Input),
    s.inputs = .rst c.toParameters grip :: rest →
    s.uop = none →
      step s = .next { State.powerOn c grip with
        inputs := rest, tx := s.tx, events := s.events, draws := s.draws }) ∧
  (∀ (s : State) (cfg : Parameters) (grip : Grip) (rest : List Input),
    s.inputs = .rst cfg grip :: rest → cfg.valid = false → s.uop = none →
      step s = .refused .invalidConfiguration)

end Steps

section Numbers

/-- R11, D1: the four operations on finite operands are correctly rounded once, ties to even; the divisor is
not a zero. The exact values are in units of 2^-149. What correctly rounded means is the IEEE-754 standard's,
which is not among the spec's sources (log 1, PRESUMED). -/
def Obligations.ArithmeticIsCorrectlyRounded : Prop :=
  ∀ a b : Fp, Fp.isFinite a = true → Fp.isFinite b = true →
    CorrectlyRounded (Fp.value a + Fp.value b) 1 (fadd a b) ∧
    CorrectlyRounded (Fp.value a - Fp.value b) 1 (fsub a b) ∧
    CorrectlyRounded (Fp.value a * Fp.value b) (2 ^ 149) (fmul a b) ∧
    (Fp.isZero b = false →
      CorrectlyRounded (Fp.value a * 2 ^ 149 * (Fp.value b).sign) (Fp.value b).natAbs (fdiv a b))

/-- R11, R123, R124 (log 1: IEEE default results). A NaN operand gives a NaN and every comparison with one is
false. The sum of opposite infinities, the difference of equal ones, zero times infinity, zero by zero and
infinity by infinity give a NaN. An infinity stays in the sum or difference with a finite value, in the sum with
its equal and in the difference with its opposite, its sign changed where it is the one subtracted. Its product
with an infinity or a finite value that is not a zero, and its quotient by a finite value, is the infinity of the
exclusive-or of the signs, and so is the quotient of any value but a NaN or a zero by a zero. A finite value by an
infinity is the zero of that sign. -/
def Obligations.NotANumberAndInfinityRules : Prop :=
  (∀ a b : Fp, (Fp.isNaN a = true ∨ Fp.isNaN b = true) →
    Fp.isNaN (fadd a b) = true ∧ Fp.isNaN (fsub a b) = true ∧ Fp.isNaN (fmul a b) = true ∧
      Fp.isNaN (fdiv a b) = true ∧ flt a b = false ∧ fgt a b = false) ∧
  (∀ sg : Bool, Fp.isNaN (fadd (Fp.inf sg) (Fp.inf (!sg))) = true ∧
    Fp.isNaN (fsub (Fp.inf sg) (Fp.inf sg)) = true) ∧
  (∀ (sg : Bool) (z : Fp), Fp.isZero z = true →
    Fp.isNaN (fmul (Fp.inf sg) z) = true ∧ Fp.isNaN (fmul z (Fp.inf sg)) = true) ∧
  (∀ z w : Fp, Fp.isZero z = true → Fp.isZero w = true → Fp.isNaN (fdiv z w) = true) ∧
  (∀ (sg : Bool) (a : Fp), Fp.isFinite a = true →
    fadd (Fp.inf sg) a = Fp.inf sg ∧ fadd a (Fp.inf sg) = Fp.inf sg ∧
      fsub (Fp.inf sg) a = Fp.inf sg ∧ fsub a (Fp.inf sg) = Fp.inf (!sg) ∧
      fdiv a (Fp.inf sg) = Fp.signedZero (Fp.sign a != sg) ∧ fdiv (Fp.inf sg) a = Fp.inf (sg != Fp.sign a) ∧
      (Fp.isZero a = false →
        fmul a (Fp.inf sg) = Fp.inf (Fp.sign a != sg) ∧ fmul (Fp.inf sg) a = Fp.inf (sg != Fp.sign a))) ∧
  (∀ sg : Bool, fadd (Fp.inf sg) (Fp.inf sg) = Fp.inf sg ∧ fsub (Fp.inf sg) (Fp.inf (!sg)) = Fp.inf sg) ∧
  (∀ sg sh : Bool, fmul (Fp.inf sg) (Fp.inf sh) = Fp.inf (sg != sh) ∧
    Fp.isNaN (fdiv (Fp.inf sg) (Fp.inf sh)) = true) ∧
  (∀ a z : Fp, Fp.isZero z = true → Fp.isNaN a = false → Fp.isZero a = false →
    fdiv a z = Fp.inf (Fp.sign a != Fp.sign z))

/-- R117, R126, R141: the signed-zero facts the spec names: `x + 0 = x` but for the zero -0.0, the sum of
zeros of opposite signs is +0.0, and `x - x` is +0.0 for a finite `x`. -/
def Obligations.SignedZeroLaws : Prop :=
  (∀ x : Fp, Fp.isNaN x = false → x ≠ 0x80000000#32 → fadd x Fp.zero = x ∧ fadd Fp.zero x = x) ∧
  (fadd 0x80000000#32 Fp.zero = Fp.zero ∧ fadd Fp.zero 0x80000000#32 = Fp.zero) ∧
  (∀ x : Fp, Fp.isFinite x = true → fsub x x = Fp.zero) ∧
  (∀ x z : Fp, Fp.isFinite x = true → Fp.isZero z = true →
    fmul x z = Fp.signedZero (Fp.sign x != Fp.sign z))

/-- R12, R118: for bounds in order and an operand that is not a NaN, clamp gives the nearest bound outside
them and the operand itself inside, never leaves the bounds, and is idempotent. -/
def Obligations.ClampGivesTheNearestValueInRange : Prop :=
  ∀ x lo hi : Fp, Fp.le lo hi = true → Fp.isNaN x = false →
    (flt x lo = true → clamp x lo hi = lo) ∧
    (fgt x hi = true → clamp x lo hi = hi) ∧
    (flt x lo = false → fgt x hi = false → clamp x lo hi = x) ∧
    Fp.le lo (clamp x lo hi) = true ∧ Fp.le (clamp x lo hi) hi = true ∧
    clamp (clamp x lo hi) lo hi = clamp x lo hi ∧
    ∀ y : Fp, Fp.le lo y = true → Fp.le y hi = true →
      (Fp.value (clamp x lo hi) - Fp.value x).natAbs ≤ (Fp.value y - Fp.value x).natAbs

end Numbers

section PidController

/-- R111: the select word `10jj` is `PID.RESET j`, which clears the three fields of `P[j]` and changes nothing else; it
is idempotent. -/
def Obligations.PidResetClearsOneController : Prop :=
  ∀ (s : State) (j : Joint) (A B : Fp),
    decodeMicro (0b10#2 ++ BitVec.ofNat 2 j.val) A B = some (.pidReset j) ∧
    exec (.pidReset j) s = .next { s with P := s.P.set j ⟨0#32, 0#32, true⟩ } ∧
    exec (.pidReset j) { s with P := s.P.set j ⟨0#32, 0#32, true⟩ } =
      .next { s with P := s.P.set j ⟨0#32, 0#32, true⟩ }

/-- R113 (with R114 to R119): `PID.UPDATE j, e, ff` under `AW = none`, where `u_unsat` is not a NaN: the
three terms, with the period `C.T` that EveryConfigurationIsValid gives (log 9), the sum from left to right, the clamp, and the three fields of `P[j]`. The bus `Y` carries the
result `u` (R91, log 11); nothing else changes. -/
def Obligations.PidUpdateComputesTheClampedSum : Prop :=
  ∀ (s : State) (j : Joint) (e ff : Fp), s.C.AW = .none →
    let up := fmul (s.C.kp.get j) e
    let ui_next := fadd (s.P.get j).ui (fmul (fmul (s.C.ki.get j) e) s.C.T)
    let ud := if (s.P.get j).first = true then 0#32
      else fdiv (fmul (s.C.kd.get j) (fsub e (s.P.get j).error_prev)) s.C.T
    let u_unsat := fadd (fadd (fadd up ui_next) ud) ff
    Fp.isNaN u_unsat = false →
      exec (.pidUpdate j e ff) s = .next { s with
        P := s.P.set j ⟨ui_next, e, false⟩
        Y := if flt u_unsat (s.C.u_min.get j) = true then s.C.u_min.get j
          else if fgt u_unsat (s.C.u_max.get j) = true then s.C.u_max.get j else u_unsat }

/-- R120: under `AW = freeze` the same sum and the same result; the stored accumulator keeps its old value
while `u_unsat` is strictly outside the bounds. -/
def Obligations.FreezeHoldsTheAccumulatorWhileSaturated : Prop :=
  ∀ (s : State) (j : Joint) (e ff : Fp), s.C.AW = .freeze →
    let up := fmul (s.C.kp.get j) e
    let ui_next := fadd (s.P.get j).ui (fmul (fmul (s.C.ki.get j) e) s.C.T)
    let ud := if (s.P.get j).first = true then 0#32
      else fdiv (fmul (s.C.kd.get j) (fsub e (s.P.get j).error_prev)) s.C.T
    let u_unsat := fadd (fadd (fadd up ui_next) ud) ff
    Fp.isNaN u_unsat = false →
      exec (.pidUpdate j e ff) s = .next { s with
        P := s.P.set j
          ⟨if flt u_unsat (s.C.u_min.get j) = true ∨ fgt u_unsat (s.C.u_max.get j) = true then (s.P.get j).ui
            else ui_next, e, false⟩
        Y := if flt u_unsat (s.C.u_min.get j) = true then s.C.u_min.get j
          else if fgt u_unsat (s.C.u_max.get j) = true then s.C.u_max.get j else u_unsat }

/-- R120: two machines that differ in `AW` only give the same `u` for the same state and operands and differ
only in the stored accumulator. -/
def Obligations.AntiWindupModesAgreeOnTheOutput : Prop :=
  ∀ (s t : State) (c : Configuration) (j : Joint) (e ff : Fp),
    s.C.AW = .none → c.toParameters = { s.C.toParameters with AW := .freeze } →
    exec (.pidUpdate j e ff) s = .next t →
      ∃ ui, exec (.pidUpdate j e ff) { s with C := c } =
        .next { t with C := c, P := t.P.set j { t.P.get j with ui := ui } }

/-- U1 (log 3, log 5): where `u_unsat` is a NaN the update still runs: the three fields of `P[j]` are written
as R113 says (a NaN is not saturated, R120), and the result is the next free value, whatever it is. -/
def Obligations.PidUpdateOfANaNGivesAFreeResult : Prop :=
  ∀ (s : State) (j : Joint) (e ff : Fp),
    let ui_next := fadd (s.P.get j).ui (fmul (fmul (s.C.ki.get j) e) s.C.T)
    let ud := if (s.P.get j).first = true then 0#32
      else fdiv (fmul (s.C.kd.get j) (fsub e (s.P.get j).error_prev)) s.C.T
    Fp.isNaN (fadd (fadd (fadd (fmul (s.C.kp.get j) e) ui_next) ud) ff) = true →
      exec (.pidUpdate j e ff) s = .next { s with
        P := s.P.set j ⟨ui_next, e, false⟩, Y := Config.freeFp s.draws, draws := s.draws + 1 }

/-- R121, R122: the result of `PID.UPDATE j` is within `[u_min, u_max]`, and finite, wherever `u_unsat` is not
a NaN. -/
def Obligations.PidOutputIsBounded : Prop :=
  ∀ (s : State) (j : Joint) (e ff : Fp), Fp.isNaN (pidUnsat s j e ff) = false →
    ∃ t, exec (.pidUpdate j e ff) s = .next t ∧
      Fp.le (s.C.u_min.get j) t.Y = true ∧ Fp.le t.Y (s.C.u_max.get j) = true ∧ Fp.isFinite t.Y = true

/-- R126: the first update after a reset, with feed-forward +0.0, computes `kp*e + ki*e*T` exactly, up to the
sign of a zero result, and gives it as its output where it lies within the bounds. -/
def Obligations.FirstUpdateHasNoDerivative : Prop :=
  ∀ (s t u : State) (j : Joint) (e : Fp),
    exec (.pidReset j) s = .next t →
    let x := fadd (fmul (s.C.kp.get j) e) (fmul (fmul (s.C.ki.get j) e) s.C.T)
    Fp.isNaN x = false →
    Fp.le (s.C.u_min.get j) x = true → Fp.le x (s.C.u_max.get j) = true →
    exec (.pidUpdate j e 0#32) t = .next u →
      (Fp.isZero x = false → u.Y = x) ∧ (Fp.isZero x = true → Fp.isZero u.Y = true)

/-- R110, R140, R27: the micro-operations of one joint leave the records of every other joint unchanged, and
depend on no other joint's records: replacing these changes neither the result nor the joint's own records. -/
def Obligations.JointsAreIndependent : Prop :=
  ∀ (s t : State) (j k : Joint) (p : PidState) (q : JointState) (a e ff : Fp) (i : Instr), j ≠ k →
    i = .pidUpdate j e ff ∨ i = .pidReset j ∨ i = .velSample j a →
    exec i s = .next t →
      t.P.get k = s.P.get k ∧ t.J.get k = s.J.get k ∧
      exec i { s with P := s.P.set k p, J := s.J.set k q } =
        .next { t with P := t.P.set k p, J := t.J.set k q }

end PidController

section VelocityEstimator

/-- R141, R142: the select word `00jj` with `A = a` is `VEL.SAMPLE j, a`: the difference to the previous sample times `F`; the sample becomes `angle`
and `previous_angle`; nothing else changes. -/
def Obligations.VelSampleScalesTheDifferenceByTheRate : Prop :=
  ∀ (s : State) (j : Joint) (a B : Fp),
    decodeMicro (0b00#2 ++ BitVec.ofNat 2 j.val) a B = some (.velSample j a) ∧
    exec (.velSample j a) s = .next { s with
      J := s.J.set j ⟨(s.J.get j).setpoint, a, fmul (fsub a (s.J.get j).previous_angle) s.C.F,
        (s.J.get j).voltage_cmd, a⟩ }

/-- R143: after two samples of a joint the velocity is `(a1 - a0) * F`, whatever steps ran between them, as
long as none wrote `previous_angle` of that joint and none was a power-on with another rate. -/
def Obligations.VelocityIsTheDifferenceOfTwoSamples : Prop :=
  ∀ (s t t' u : State) (j : Joint) (a0 a1 : Fp),
    exec (.velSample j a0) s = .next t →
    (t'.J.get j).previous_angle = (t.J.get j).previous_angle → t'.C.F = t.C.F →
    exec (.velSample j a1) t' = .next u →
      (u.J.get j).velocity = fmul (fsub a1 a0) s.C.F ∧
      (Fp.isFinite a0 = true → a1 = a0 → (u.J.get j).velocity = 0#32)

end VelocityEstimator

section ControlCycle

/-- R152: a TICK with `MEN` false samples the three encoders, refreshes `angle`, `velocity` and
`previous_angle`, and changes nothing else: no update, no command, no `ActSet`. -/
def Obligations.DisabledTickOnlySamples : Prop :=
  ∀ (s : State) (a : PerJoint Fp) (rest : List Input),
    s.uop = none → s.inputs = .tick a :: rest → s.MEN = false →
      ∃ J', step s = .next { s with
          inputs := rest, J := J', events := s.events ++ [.encRead 0, .encRead 1, .encRead 2] } ∧
        ∀ j, J'.get j = ⟨(s.J.get j).setpoint, a.get j,
          fmul (fsub (a.get j) (s.J.get j).previous_angle) s.C.F, (s.J.get j).voltage_cmd, a.get j⟩

/-- R150, R151, R153: a TICK with `MEN` true gives each joint its sample and one `PID.UPDATE` with the error of
the angle just sampled and feed-forward +0.0, stores the result and sends it, joint after joint; each result is
the clamp of its sum, or any value where that is a NaN (U1). An armed channel takes the pulse width of R207 for
its command, any value where that is a NaN (log 12); a disarmed one stays. Only the named fields, the bus `Y`
(log 11), the Actuator Channels and the counter of free values change. -/
def Obligations.EnabledTickServoesEveryJoint : Prop :=
  ∀ (s : State) (a : PerJoint Fp) (rest : List Input),
    s.uop = none → s.inputs = .tick a :: rest → s.MEN = true →
      ∃ (u : PerJoint Fp) (J' : PerJoint JointState) (P' : PerJoint PidState)
        (act : PerJoint ActuatorState) (n : Nat),
        step s = .next { s with
          inputs := rest, J := J', P := P', Y := u.j2, ACT := act, draws := n
          events := s.events ++
            [.encRead 0, .actSet 0 u.j0, .encRead 1, .actSet 1 u.j1, .encRead 2, .actSet 2 u.j2] } ∧
        ∀ j, J'.get j = ⟨(s.J.get j).setpoint, a.get j,
            fmul (fsub (a.get j) (s.J.get j).previous_angle) s.C.F, u.get j, a.get j⟩ ∧
          P'.get j = ⟨pidUiStored s j (fsub (s.J.get j).setpoint (a.get j)) 0#32,
            fsub (s.J.get j).setpoint (a.get j), false⟩ ∧
          (Fp.isNaN (pidUnsat s j (fsub (s.J.get j).setpoint (a.get j)) 0#32) = false →
            u.get j = clamp (pidUnsat s j (fsub (s.J.get j).setpoint (a.get j)) 0#32)
              (s.C.u_min.get j) (s.C.u_max.get j)) ∧
          (act.get j).armed = (s.ACT.get j).armed ∧
          ((s.ACT.get j).armed = false → act.get j = s.ACT.get j) ∧
          ((s.ACT.get j).armed = true → Fp.isNaN (pulseOf (s.C.act.get j) (u.get j)) = false →
            (act.get j).pulse = clamp (pulseOf (s.C.act.get j) (u.get j))
              (s.C.act.get j).pulse_min (s.C.act.get j).pulse_max)

/-- R154, R224: whatever the phase, the pending accesses and `MEN`, a TICK leaves the setpoints, `MEN`, `GRIP`,
`DPH` with its received payload, the configuration, the byte stream and the pending accesses as they were. -/
def Obligations.TickLeavesTheForegroundUntouched : Prop :=
  ∀ (s : State) (a : PerJoint Fp) (rest : List Input), s.uop = none → s.inputs = .tick a :: rest →
    ∃ t, step s = .next t ∧ t.inputs = rest ∧ t.MEN = s.MEN ∧ t.GRIP = s.GRIP ∧ t.DPH = s.DPH ∧ t.C = s.C ∧
      t.tx = s.tx ∧ t.burst = s.burst ∧ ∀ j, (t.J.get j).setpoint = (s.J.get j).setpoint

/-- R157: with motors enabled, setpoints, previous samples, accumulators and error histories +0.0, and bounds
that hold zero, every number of TICKs from one on that answer +0.0 leaves commands, accumulators and velocities
at +0.0, whatever angle, velocity and command the joints began with. -/
def Obligations.EquilibriumIsASteadyState : Prop :=
  ∀ (s : State) (n : Nat),
    s.uop = none → s.MEN = true →
    (∀ j, (s.J.get j).setpoint = 0#32 ∧ (s.J.get j).previous_angle = 0#32 ∧
      (s.P.get j).ui = 0#32 ∧ (s.P.get j).error_prev = 0#32 ∧
      Fp.le (s.C.u_min.get j) 0#32 = true ∧ Fp.le 0#32 (s.C.u_max.get j) = true) →
    s.inputs = List.replicate (n + 1) (.tick ⟨0#32, 0#32, 0#32⟩) →
      ∃ t, Sys2Proof.core.run (n + 1) s = .next t ∧ t.MEN = true ∧
        ∀ j, t.J.get j = ⟨0#32, 0#32, 0#32, 0#32, 0#32⟩ ∧ t.P.get j = ⟨0#32, 0#32, false⟩

/-- The model's own ways to have a TICK (log 4, log 17). With no input listed and no access pending the step
is a TICK with three free answers (R223: TICK is always enabled; R155). A TICK on register payloads takes the
Encoder Channels' answers, finite values computed from bits [13:2] and the home offset (R201) by a conversion
that is free but for being finite (log 17). -/
def Obligations.TicksWithoutListedAnswers : Prop :=
  (∀ s : State, s.uop = none → s.inputs = [] → s.burst = [] →
    step s = step { s with
      inputs := [.tick ⟨Config.freeFp s.draws, Config.freeFp (s.draws + 1), Config.freeFp (s.draws + 2)⟩]
      draws := s.draws + 3 }) ∧
  (∀ (s : State) (p : PerJoint (BitVec 14)) (rest : List Input), s.uop = none → s.inputs = .tickPayload p :: rest →
    ∃ a : PerJoint Fp,
      (∀ j, Fp.isFinite (a.get j) = true ∧ ∃ count : BitVec 12, count.toNat = (p.get j).toNat / 4 ∧
        a.get j = Fp.finitePart (Config.encoderAngle count (s.C.home.get j))) ∧
      step s = step { s with inputs := .tick a :: rest })

end ControlCycle

section HostCommands

/-- R171: the byte 0x01 is ENABLE; its effect at one instant: `MEN` true, the three controllers reset, the three
channels armed in order, whatever `MEN` was; nothing else changes. Each channel is driven to the neutral offset, as
a value (R205, R208; the number format and the validity of the channel's constants are the model's, log 12,
DEDUCED). -/
def Obligations.EnableResetsAndArms : Prop :=
  ∀ s : State, s.C.SNAP = .guarded →
    decode [0x01#8] = .instr .enable [] ∧
    ∃ act : PerJoint ActuatorState,
      exec .enable s = .next { s with
        MEN := true
        P := ⟨⟨0#32, 0#32, true⟩, ⟨0#32, 0#32, true⟩, ⟨0#32, 0#32, true⟩⟩
        ACT := act
        events := s.events ++ [.actEnable 0, .actEnable 1, .actEnable 2] } ∧
      ∀ j, (act.get j).armed = true ∧ Fp.value (act.get j).pulse = Fp.value (s.C.act.get j).offset

/-- R172, R206: the byte 0x02 is DISABLE; its effect at one instant: `MEN` false, the voltage commands +0.0, the channels disarmed with zero
pulse width, the gripper open; nothing else changes. -/
def Obligations.DisableZeroesAndDisarms : Prop :=
  ∀ s : State, s.C.SNAP = .guarded →
    decode [0x02#8] = .instr .disable [] ∧
    exec .disable s = .next { s with
      MEN := false
      J := ⟨{ s.J.j0 with voltage_cmd := 0#32 }, { s.J.j1 with voltage_cmd := 0#32 },
        { s.J.j2 with voltage_cmd := 0#32 }⟩
      ACT := ⟨⟨false, 0#32⟩, ⟨false, 0#32⟩, ⟨false, 0#32⟩⟩
      GRIP := .opened
      events := s.events ++ [.actDisable 0, .actDisable 1, .actDisable 2, .gripOpen] }

/-- R173, R51: the byte 0x03 is GETSTATE; its effect at one instant: 48 bytes, field `k` of joint `j` at offset `16*j + 4*k`, least
significant byte first; nothing else changes. -/
def Obligations.GetstateSendsTheTelemetryLayout : Prop :=
  ∀ s : State, s.C.SNAP = .guarded →
    decode [0x03#8] = .instr .getstate [] ∧
    ∃ bs : List Byte, exec .getstate s = .next { s with tx := s.tx ++ bs } ∧ bs.length = 48 ∧
      ∀ (j : Joint) (k i : Fin 4),
        bs[16 * j.val + 4 * k.val + i.val]? =
          some (byteOf (match k with
            | 0 => (s.J.get j).setpoint
            | 1 => (s.J.get j).angle
            | 2 => (s.J.get j).velocity
            | 3 => (s.J.get j).voltage_cmd) i)

/-- R175, R176: SETPOINT at one instant: each value that is not a NaN is stored clamped to its joint's limits
and lies within them; nothing else changes. A NaN stores any value (U1). The clauses on the counter of free
values, which a NaN alone advances, are the model's own (log 3, log 5). -/
def Obligations.SetpointStoresClampedValues : Prop :=
  ∀ (s : State) (sp0 sp1 sp2 : Fp), s.C.SNAP = .guarded →
    ∃ (v : PerJoint Fp) (n : Nat),
      exec (.setpoint sp0 sp1 sp2) s = .next { s with
        J := ⟨{ s.J.j0 with setpoint := v.j0 }, { s.J.j1 with setpoint := v.j1 },
          { s.J.j2 with setpoint := v.j2 }⟩
        draws := n } ∧
      (∀ j, Fp.isNaN (setpointOperand sp0 sp1 sp2 j) = false →
        (flt (setpointOperand sp0 sp1 sp2 j) (s.C.min_angle.get j) = true → v.get j = s.C.min_angle.get j) ∧
        (fgt (setpointOperand sp0 sp1 sp2 j) (s.C.max_angle.get j) = true → v.get j = s.C.max_angle.get j) ∧
        (flt (setpointOperand sp0 sp1 sp2 j) (s.C.min_angle.get j) = false →
          fgt (setpointOperand sp0 sp1 sp2 j) (s.C.max_angle.get j) = false →
            v.get j = setpointOperand sp0 sp1 sp2 j) ∧
        Fp.le (s.C.min_angle.get j) (v.get j) = true ∧ Fp.le (v.get j) (s.C.max_angle.get j) = true) ∧
      ((∀ j, Fp.isNaN (setpointOperand sp0 sp1 sp2 j) = false) → n = s.draws)

/-- R177: the byte 0x05 is GRIPOPEN, which opens the gripper and changes nothing else. -/
def Obligations.GripopenOpensTheGripper : Prop :=
  ∀ s : State, s.C.SNAP = .guarded →
    decode [0x05#8] = .instr .gripopen [] ∧
    exec .gripopen s = .next { s with GRIP := .opened, events := s.events ++ [.gripOpen] }

/-- R178: the byte 0x06 is GRIPCLOSE, which closes the gripper and changes nothing else. -/
def Obligations.GripcloseClosesTheGripper : Prop :=
  ∀ s : State, s.C.SNAP = .guarded →
    decode [0x06#8] = .instr .gripclose [] ∧
    exec .gripclose s = .next { s with GRIP := .closed, events := s.events ++ [.gripClose] }

/-- R60: GETSTATE apart, a host command repeated at once leaves the block in the state one execution left (a
setpoint that is a NaN stores a new free value, so it is excepted, U1); GETSTATE changes no state of the
block. -/
def Obligations.RepeatedCommandsChangeNothingMore : Prop :=
  ∀ (s t t' : State) (i : Instr), s.C.SNAP = .guarded →
    i = .enable ∨ i = .disable ∨ i = .getstate ∨ i = .gripopen ∨ i = .gripclose ∨
      (∃ sp0 sp1 sp2, i = .setpoint sp0 sp1 sp2 ∧ ∀ j, Fp.isNaN (setpointOperand sp0 sp1 sp2 j) = false) →
    exec i s = .next t → exec i t = .next t' →
      (t'.J = t.J ∧ t'.P = t.P ∧ t'.MEN = t.MEN ∧ t'.GRIP = t.GRIP ∧ t'.DPH = t.DPH ∧ t'.C = t.C ∧
        t'.ACT = t.ACT ∧ t'.draws = t.draws) ∧
      (i = .getstate → t.J = s.J ∧ t.P = s.P ∧ t.MEN = s.MEN ∧ t.GRIP = s.GRIP ∧ t.DPH = s.DPH ∧ t.ACT = s.ACT)

/-- R39 (with R21): under `guarded` a setpoint within its limits stays within them at every step, but for a
power-on and a SETPOINT whose value for that joint is a NaN. -/
def Obligations.SetpointStaysWithinItsLimits : Prop :=
  ∀ (s t : State) (j : Joint), s.C.SNAP = .guarded → s.burst = [] →
    ¬ NextIsPowerOn s → NoNaNCommit s j → SetpointInRange s j → step s = .next t → SetpointInRange t j

/-- R172, R152 (the source's scenario S8): after DISABLE and any number of TICKs, GETSTATE reports +0.0 volts
for all joints and the channels are disarmed with zero pulse width. -/
def Obligations.DisabledArmReportsZeroVolts : Prop :=
  ∀ (s : State) (ticks : List (PerJoint Fp)), s.C.SNAP = .guarded → s.uop = none → s.burst = [] →
    s.DPH = .waitOpcode → s.inputs = .rx 0x02#8 :: (ticks.map Input.tick ++ [.rx 0x03#8]) →
      ∃ (t : State) (bs : List Byte), Sys2Proof.core.run (ticks.length + 2) s = .next t ∧
        t.MEN = false ∧ t.tx = s.tx ++ bs ∧ bs.length = 48 ∧
        ∀ j : Joint, (t.ACT.get j) = ⟨false, 0#32⟩ ∧ (t.J.get j).voltage_cmd = 0#32 ∧
          ∀ i : Fin 4, bs[16 * j.val + 12 + i.val]? = some 0#8

end HostCommands

section Unguarded

/-- R58, U5 (log 13): under `unguarded` each host command starts its accesses and has none of its other effects
yet; SETPOINT has its clamped values computed, a NaN's drawn free (log 14). -/
def Obligations.UnguardedCommandsStartTheirAccesses : Prop :=
  ∀ s : State, s.C.SNAP = .unguarded →
    exec .enable s = .next { s with burst := s.burst ++ enableAccesses } ∧
    exec .disable s = .next { s with burst := s.burst ++ disableAccesses } ∧
    exec .getstate s = .next { s with burst := s.burst ++ getstateAccesses } ∧
    exec .gripopen s = .next { s with burst := s.burst ++ [.setGrip .opened, .emit .gripOpen] } ∧
    exec .gripclose s = .next { s with burst := s.burst ++ [.setGrip .closed, .emit .gripClose] } ∧
    ∀ sp0 sp1 sp2, ∃ (v : PerJoint Fp) (n : Nat),
      exec (.setpoint sp0 sp1 sp2) s = .next { s with burst := s.burst ++ setpointAccesses v, draws := n } ∧
      (∀ j, Fp.isNaN (setpointOperand sp0 sp1 sp2 j) = false →
        v.get j = clamp (setpointOperand sp0 sp1 sp2 j) (s.C.min_angle.get j) (s.C.max_angle.get j)) ∧
      ((∀ j, Fp.isNaN (setpointOperand sp0 sp1 sp2 j) = false) → n = s.draws)

/-- R58 against R59: an unguarded command whose accesses no TICK interrupts ends in the very state the guarded
command ends in, in whatever order the bytes of its stores are taken (log 13: the model's accesses and their
open byte order). -/
def Obligations.UninterruptedCommandEqualsTheGuardedOne : Prop :=
  ∀ (s t g : State) (c : Configuration) (i : Instr) (picks : List Nat),
    s.C.SNAP = .unguarded → c.toParameters = { s.C.toParameters with SNAP := .guarded } →
    s.uop = none → s.burst = [] → s.inputs = [] →
    exec i s = .next t → exec i { s with C := c } = .next g → picks.length = burstSize t.burst →
      Sys2Proof.core.run picks.length { t with inputs := picks.map Input.foreground } =
        .next { g with C := s.C }

/-- R58 (b), U5 (b): under `unguarded` a TICK can compute its error from a setpoint that is partly new: neither
the old value nor the stored one, and outside the limits both lie in. -/
def Obligations.UnguardedTickCanReadATornSetpoint : Prop :=
  ∃ (s t : State) (old new torn a : Fp),
    s.C.SNAP = .unguarded ∧ s.uop = none ∧ s.burst = [] ∧ s.MEN = true ∧ SetpointInRange s 0 ∧
    (s.J.get 0).setpoint = old ∧ clamp new (s.C.min_angle.get 0) (s.C.max_angle.get 0) = new ∧
    exec (.setpoint new 0#32 0#32) s = .next t ∧
    torn ≠ old ∧ torn ≠ new ∧ Fp.isFinite torn = true ∧ fgt torn (s.C.max_angle.get 0) = true ∧
    ∃ u, Sys2Proof.core.run 2 { t with inputs := [.foreground 2, .tick ⟨a, 0#32, 0#32⟩] } = .next u ∧
      (u.J.get 0).setpoint = torn ∧ (u.P.get 0).error_prev = fsub torn a

/-- R180, R64 (log 13, log 19): with no access pending a run of the foreground context waits, with some it makes
the first one. While accesses are pending a received byte stays in the inputs, and the step is one run of the
foreground context with the byte still there: the next access is made, the phase changes only by the access that
ends a payload (R170), and a pending access that has anything
left to do gets one byte or one action nearer to its end. -/
def Obligations.ForegroundWaitsOrFinishesFirst : Prop :=
  (∀ (s : State) (k : Nat) (rest : List Input), s.uop = none → s.inputs = .foreground k :: rest → s.burst = [] →
    step s = .next { s with inputs := rest }) ∧
  (∀ (s : State) (k : Nat) (rest : List Input) (a : Access) (more : List Access),
    s.uop = none → s.inputs = .foreground k :: rest → s.burst = a :: more →
    ∃ (t : State) (left : List Access), a.perform k { s with inputs := rest } = (t, left) ∧
      step s = .next { t with burst := left ++ more } ∧
      burstSize left + 1 = max (Access.size a) 1) ∧
  (∀ (s : State) (b : Byte) (rest : List Input) (a : Access) (more : List Access),
    s.uop = none → s.inputs = .rx b :: rest → s.burst = a :: more →
    ∃ t, step s = .next t ∧ t = foreground 0 s ∧
      step { s with inputs := .foreground 0 :: s.inputs } = .next t ∧
      t.inputs = s.inputs ∧ t.DPH = (if a = .endPayload then .waitOpcode else s.DPH) ∧
      (0 < Access.size a → burstSize t.burst + 1 = burstSize s.burst))

end Unguarded

section Actuators

/-- R205 to R208 at the interface (number format, order of evaluation and validity of the constants are log
12's): a disarmed channel ignores `ActSet`; an armed one takes `offset + cmd * (pulse_range / cmd_max)` clamped
to the window, which it is within, for every command for which that is not a NaN, every finite one among them,
and any value for the others (log 3); `ActDisable` disarms with zero pulse width; `ActEnable` arms and behaves as
a command of zero, and a command of zero on an armed channel gives the neutral offset, as a value; no channel of
another joint changes. -/
def Obligations.ActuatorChannelContract : Prop :=
  ∀ (s : State) (j : Joint),
    (∀ v, (s.ACT.get j).armed = false → s.emit (.actSet j v) = { s with events := s.events ++ [.actSet j v] }) ∧
    (∀ v, (s.ACT.get j).armed = true →
      let c := s.C.act.get j
      let x := fadd c.offset (fmul v (fdiv c.pulse_range c.cmd_max))
      let p := if flt x c.pulse_min = true then c.pulse_min else if fgt x c.pulse_max = true then c.pulse_max else x
      (Fp.isFinite v = true → Fp.isNaN x = false) ∧
      (Fp.isNaN x = false →
        s.emit (.actSet j v) = { s with events := s.events ++ [.actSet j v], ACT := s.ACT.set j ⟨true, p⟩ } ∧
        Fp.le c.pulse_min p = true ∧ Fp.le p c.pulse_max = true) ∧
      (Fp.isNaN x = true →
        s.emit (.actSet j v) = { s with
          events := s.events ++ [.actSet j v], ACT := s.ACT.set j ⟨true, Config.freeFp s.draws⟩
          draws := s.draws + 1 })) ∧
    (s.emit (.actDisable j) =
      { s with events := s.events ++ [.actDisable j], ACT := s.ACT.set j ⟨false, 0#32⟩ }) ∧
    (∃ p, s.emit (.actEnable j) = { s with
        events := s.events ++ [.actEnable j], ACT := s.ACT.set j ⟨true, p⟩ } ∧
      Fp.value p = Fp.value (s.C.act.get j).offset) ∧
    (∀ z, Fp.isZero z = true → (s.ACT.get j).armed = true →
      ∃ p, s.emit (.actSet j z) = { s with
          events := s.events ++ [.actSet j z], ACT := s.ACT.set j ⟨true, p⟩ } ∧
        Fp.value p = Fp.value (s.C.act.get j).offset)

end Actuators

section Configurations

/-- R7, R8, D11, D12: the period of a configuration is `fdiv(1.0, F)` (log 9); a configuration is valid exactly
when every value is finite, `F` and `T` are positive and the bounds and limits are in order, with constants of
the Actuator Channels that are valid in the model's own sense (log 12); and every state's configuration is valid
(log 7). -/
def Obligations.EveryConfigurationIsValid : Prop :=
  (∀ p : Parameters, p.T = fdiv 0x3F800000#32 p.F) ∧
  (∀ p : Parameters, p.valid = true ↔
    Fp.isFinite p.F = true ∧ flt 0#32 p.F = true ∧
    Fp.isFinite (fdiv 0x3F800000#32 p.F) = true ∧ flt 0#32 (fdiv 0x3F800000#32 p.F) = true ∧
    ∀ j : Joint,
      Fp.isFinite (p.kp.get j) = true ∧ Fp.isFinite (p.ki.get j) = true ∧ Fp.isFinite (p.kd.get j) = true ∧
      Fp.isFinite (p.u_min.get j) = true ∧ Fp.isFinite (p.u_max.get j) = true ∧
      Fp.isFinite (p.min_angle.get j) = true ∧ Fp.isFinite (p.max_angle.get j) = true ∧
      Fp.isFinite (p.home.get j) = true ∧
      Fp.le (p.u_min.get j) (p.u_max.get j) = true ∧ Fp.le (p.min_angle.get j) (p.max_angle.get j) = true ∧
      (p.act.get j).valid = true) ∧
  (∀ s : State, s.C.toParameters.valid = true)

end Configurations

section Sequencing

/-- R91, R112, R147: micro-operations run in the block's own sequencing alone. From a state whose
micro-operation port is empty, which every state of a run has (R91; log 10), no step puts a select word on it. A
step that is no TICK and no power-on takes no sample and makes no update: `previous_angle` and the bus `Y` stay,
and with no access pending so do `angle` and `velocity` (R147). If it is no ENABLE either, it resets no
controller: with no access pending all of `P` stays (R112). -/
def Obligations.MicroOperationsRunInTheBlocksSequencingAlone : Prop :=
  ∀ s t : State, s.uop = none → step s = .next t → ¬ NextIsPowerOn s →
    t.uop = none ∧
    (¬ TakesTick s →
      t.Y = s.Y ∧ (∀ j, (t.J.get j).previous_angle = (s.J.get j).previous_angle) ∧
      (s.burst = [] →
        (∀ j, (t.J.get j).angle = (s.J.get j).angle ∧ (t.J.get j).velocity = (s.J.get j).velocity) ∧
        (¬ TakesEnable s → t.P = s.P)))

end Sequencing
end

