-- ==== Sys2Proof/Laws/Decode.lean ====
section
/-! SUPPORT. What the decoders and the encoder answer. -/

namespace Sys2Proof

/-- The payload decoder reads a SETPOINT or waits for more bytes; it never ignores a byte (R86). -/
theorem decodeSetpoint_cases (bs : List Byte) :
    (∃ sp0 sp1 sp2, decodeSetpoint bs = .instr (.setpoint sp0 sp1 sp2) (bs.drop 12) ∧ 12 ≤ bs.length) ∨
    (decodeSetpoint bs = .incomplete ∧ bs.length < 12) := by
  rcases Nat.lt_or_ge bs.length 12 with h | h
  · refine Or.inr ⟨?_, h⟩
    unfold decodeSetpoint
    split
    · simp only [List.length_cons] at h
      omega
    · rfl
  · refine Or.inl ?_
    match bs, h with
    | _ :: _ :: _ :: _ :: _ :: _ :: _ :: _ :: _ :: _ :: _ :: _ :: rest, _ => exact ⟨_, _, _, rfl, by simp⟩

/-- Everything the command decoder answers on a first byte (R84, R85, R88). -/
theorem decode_cases (b : Byte) (bs : List Byte) :
    (b = 0x01#8 ∧ decode (b :: bs) = .instr .enable bs) ∨
    (b = 0x02#8 ∧ decode (b :: bs) = .instr .disable bs) ∨
    (b = 0x03#8 ∧ decode (b :: bs) = .instr .getstate bs) ∨
    (b = 0x04#8 ∧ decode (b :: bs) = decodeSetpoint bs) ∨
    (b = 0x05#8 ∧ decode (b :: bs) = .instr .gripopen bs) ∨
    (b = 0x06#8 ∧ decode (b :: bs) = .instr .gripclose bs) ∨
    ((b = 0x00#8 ∨ 0x07#8 ≤ b) ∧ decode (b :: bs) = .unrecognised b bs) := by
  by_cases h1 : b = 0x01#8
  · subst h1; exact Or.inl ⟨rfl, rfl⟩
  by_cases h2 : b = 0x02#8
  · subst h2; exact Or.inr (Or.inl ⟨rfl, rfl⟩)
  by_cases h3 : b = 0x03#8
  · subst h3; exact Or.inr (Or.inr (Or.inl ⟨rfl, rfl⟩))
  by_cases h4 : b = 0x04#8
  · subst h4; exact Or.inr (Or.inr (Or.inr (Or.inl ⟨rfl, rfl⟩)))
  by_cases h5 : b = 0x05#8
  · subst h5; exact Or.inr (Or.inr (Or.inr (Or.inr (Or.inl ⟨rfl, rfl⟩))))
  by_cases h6 : b = 0x06#8
  · subst h6; exact Or.inr (Or.inr (Or.inr (Or.inr (Or.inr (Or.inl ⟨rfl, rfl⟩)))))
  · refine Or.inr (Or.inr (Or.inr (Or.inr (Or.inr (Or.inr ⟨?_, by simp [decode, h1, h2, h3, h4, h5, h6]⟩)))))
    bv_omega

/-- A byte the decoder ignores is the first one, and nothing after it is consumed (R88). -/
theorem decode_unrecognised {b o : Byte} {bs rest : List Byte} (h : decode (b :: bs) = .unrecognised o rest) :
    o = b ∧ rest = bs := by
  rcases decode_cases b bs with ⟨_, e⟩ | ⟨_, e⟩ | ⟨_, e⟩ | ⟨_, e⟩ | ⟨_, e⟩ | ⟨_, e⟩ | ⟨_, e⟩ <;> rw [e] at h
  case inr.inr.inr.inl =>
    rcases decodeSetpoint_cases bs with ⟨_, _, _, e', _⟩ | ⟨e', _⟩ <;> rw [e'] at h <;> cases h
  case inr.inr.inr.inr.inr.inr =>
    cases h
    exact ⟨rfl, rfl⟩
  all_goals cases h

end Sys2Proof
end

