-- ==== Sys2Proof/Laws/Fp.lean ====
section
/-! SUPPORT. Small lemmas about binary32 words: their fields, the classes of values, the comparisons and
clamp. -/

namespace Sys2Proof

@[simp] theorem fadd_eq (a b : Fp) : fadd a b = Fp.add a b := rfl
@[simp] theorem fsub_eq (a b : Fp) : fsub a b = Fp.sub a b := rfl
@[simp] theorem fmul_eq (a b : Fp) : fmul a b = Fp.mul a b := rfl
@[simp] theorem fdiv_eq (a b : Fp) : fdiv a b = Fp.div a b := rfl
@[simp] theorem flt_eq (a b : Fp) : flt a b = Fp.lt a b := rfl
@[simp] theorem fgt_eq (a b : Fp) : fgt a b = Fp.lt b a := rfl

/-! Fields as arithmetic -/

theorem Fp.expo_eq (x : Fp) : Fp.expo x = x.toNat / 2 ^ 23 % 2 ^ 8 := by
  simp [Fp.expo, Nat.shiftRight_eq_div_pow]

theorem Fp.frac_eq (x : Fp) : Fp.frac x = x.toNat % 2 ^ 23 := by
  simp [Fp.frac]

theorem Fp.sign_eq (x : Fp) : Fp.sign x = decide (2 ^ 31 ≤ x.toNat) := by
  simp only [Fp.sign, ← BitVec.msb_eq_getMsbD_zero, BitVec.msb_eq_decide]

theorem Fp.expo_lt (x : Fp) : Fp.expo x < 256 := by
  rw [Fp.expo_eq]
  omega

theorem Fp.frac_lt (x : Fp) : Fp.frac x < 2 ^ 23 := by
  rw [Fp.frac_eq]
  omega

/-- A word is its three fields. -/
theorem Fp.toNat_eq (x : Fp) :
    x.toNat = (if Fp.sign x then 2 ^ 31 else 0) + Fp.expo x * 2 ^ 23 + Fp.frac x := by
  have h := x.isLt
  rw [Fp.expo_eq, Fp.frac_eq, Fp.sign_eq]
  by_cases hs : 2 ^ 31 ≤ x.toNat
  · simp only [hs, decide_true, if_true]
    omega
  · simp only [hs, decide_false, Bool.false_eq_true, if_false]
    omega

/-- Two words with equal fields are equal. -/
theorem Fp.ext_fields {x y : Fp} (hs : Fp.sign x = Fp.sign y) (he : Fp.expo x = Fp.expo y)
    (hf : Fp.frac x = Fp.frac y) : x = y := by
  apply BitVec.eq_of_toNat_eq
  rw [Fp.toNat_eq x, Fp.toNat_eq y, hs, he, hf]

/-! Words built from a sign and a magnitude -/

theorem Fp.ofSignMag_toNat {s : Bool} {m : Nat} (h : m < 2 ^ 31) :
    (Fp.ofSignMag s m).toNat = m + if s then 2 ^ 31 else 0 := by
  unfold Fp.ofSignMag
  rw [BitVec.toNat_ofNat]
  apply Nat.mod_eq_of_lt
  cases s <;> (simp; omega)

theorem Fp.sign_ofSignMag {s : Bool} {m : Nat} (h : m < 2 ^ 31) : Fp.sign (Fp.ofSignMag s m) = s := by
  rw [Fp.sign_eq, Fp.ofSignMag_toNat h]
  cases s
  · simpa using h
  · simp

theorem Fp.expo_ofSignMag {s : Bool} {m : Nat} (h : m < 2 ^ 31) :
    Fp.expo (Fp.ofSignMag s m) = m / 2 ^ 23 := by
  rw [Fp.expo_eq, Fp.ofSignMag_toNat h]
  cases s <;> (simp; omega)

theorem Fp.frac_ofSignMag {s : Bool} {m : Nat} (h : m < 2 ^ 31) :
    Fp.frac (Fp.ofSignMag s m) = m % 2 ^ 23 := by
  rw [Fp.frac_eq, Fp.ofSignMag_toNat h]
  cases s
  · simp
  · simp
    omega

/-! Classes -/

theorem Fp.isNaN_iff (x : Fp) : Fp.isNaN x = true ↔ Fp.expo x = 255 ∧ Fp.frac x ≠ 0 := by
  simp [Fp.isNaN]

theorem Fp.isInf_iff (x : Fp) : Fp.isInf x = true ↔ Fp.expo x = 255 ∧ Fp.frac x = 0 := by
  simp [Fp.isInf]

theorem Fp.isFinite_iff (x : Fp) : Fp.isFinite x = true ↔ Fp.expo x ≠ 255 := by
  simp [Fp.isFinite]

theorem Fp.isZero_iff (x : Fp) : Fp.isZero x = true ↔ Fp.expo x = 0 ∧ Fp.frac x = 0 := by
  simp [Fp.isZero]

theorem Fp.isNaN_eq_false_of_isFinite {x : Fp} (h : Fp.isFinite x = true) : Fp.isNaN x = false := by
  rw [Fp.isFinite_iff] at h
  simp [Fp.isNaN, h]

theorem Fp.isInf_eq_false_of_isFinite {x : Fp} (h : Fp.isFinite x = true) : Fp.isInf x = false := by
  rw [Fp.isFinite_iff] at h
  simp [Fp.isInf, h]

/-- The finite part of every word is finite. -/
theorem Fp.isFinite_finitePart (x : Fp) : Fp.isFinite (Fp.finitePart x) = true := by
  unfold Fp.finitePart
  split
  · assumption
  · rw [Fp.isFinite_iff]
    have h : Fp.expo (x &&& 0xBFFFFFFF#32) ≤ 127 := by
      have e : (x &&& 0xBFFFFFFF#32).extractLsb 30 23 = x.extractLsb 30 23 &&& 0x7F#8 := by
        ext i hi
        have : i = 0 ∨ i = 1 ∨ i = 2 ∨ i = 3 ∨ i = 4 ∨ i = 5 ∨ i = 6 ∨ i = 7 := by omega
        rcases this with h | h | h | h | h | h | h | h <;> subst h <;> simp
      rw [Fp.expo, e, BitVec.toNat_and]
      exact Nat.and_le_right
    omega

/-- A finite word is its own finite part, so a free word's finite part is any finite value. -/
theorem Fp.finitePart_of_isFinite {x : Fp} (h : Fp.isFinite x = true) : Fp.finitePart x = x := by
  simp [Fp.finitePart, h]

/-- Every operation's NaN is a NaN, whatever its free bits are. -/
theorem Fp.isNaN_nanResult (op : Config.FpOp) (a b : Fp) : Fp.isNaN (Fp.nanResult op a b) = true := by
  rw [Fp.isNaN_iff]
  unfold Fp.nanResult
  generalize Config.nanBits op a b = w
  constructor
  · have h : (w ||| 0x7FC00000#32).extractLsb 30 23 = 255#8 := by
      ext i hi
      have : i = 0 ∨ i = 1 ∨ i = 2 ∨ i = 3 ∨ i = 4 ∨ i = 5 ∨ i = 6 ∨ i = 7 := by omega
      rcases this with h | h | h | h | h | h | h | h <;> subst h <;> simp
    simp only [Fp.expo, h]
    decide
  · intro h0
    have h : ((w ||| 0x7FC00000#32).extractLsb 22 0).getLsbD 22 = true := by simp
    have hz : (w ||| 0x7FC00000#32).extractLsb 22 0 = 0#23 := BitVec.eq_of_toNat_eq (by simpa [Fp.frac] using h0)
    rw [hz] at h
    simp at h

/-! Comparisons and clamp -/

theorem Fp.lt_iff (a b : Fp) :
    Fp.lt a b = true ↔ Fp.isNaN a = false ∧ Fp.isNaN b = false ∧ Fp.value a < Fp.value b := by
  simp [Fp.lt, and_assoc]

theorem Fp.le_iff (a b : Fp) :
    Fp.le a b = true ↔ Fp.isNaN a = false ∧ Fp.isNaN b = false ∧ Fp.value a ≤ Fp.value b := by
  simp [Fp.le, and_assoc]

theorem Fp.lt_eq_false_of_isNaN {a b : Fp} (h : Fp.isNaN a = true ∨ Fp.isNaN b = true) : Fp.lt a b = false := by
  rcases h with h | h <;> simp [Fp.lt, h]

/-- Everything `clamp` can do (R12). -/
theorem clamp_cases (x lo hi : Fp) :
    (Fp.lt x lo = true ∧ clamp x lo hi = lo) ∨
    (Fp.lt x lo = false ∧ Fp.lt hi x = true ∧ clamp x lo hi = hi) ∨
    (Fp.lt x lo = false ∧ Fp.lt hi x = false ∧ clamp x lo hi = x) := by
  cases h1 : Fp.lt x lo <;> cases h2 : Fp.lt hi x <;> simp [clamp, h1, h2]

end Sys2Proof
end

