-- ==== Sys2Proof/Laws/State.lean ====
section
/-! SUPPORT. Beside State: what each update leaves in each field (all by rfl), reading one joint's value
after writing one, and the values after reset. -/

namespace Sys2Proof

@[simp] theorem PerJoint.get_set {α : Type} (p : PerJoint α) (j k : Joint) (v : α) :
    (p.set j v).get k = if j = k then v else p.get k := by
  fin_cases j <;> fin_cases k <;> rfl

theorem PerJoint.get_set_same {α : Type} (p : PerJoint α) (j : Joint) (v : α) : (p.set j v).get j = v := by
  simp

theorem PerJoint.get_set_ne {α : Type} (p : PerJoint α) {j k : Joint} (h : j ≠ k) (v : α) :
    (p.set j v).get k = p.get k := by
  simp [h]

@[simp] theorem PerJoint.get_same {α : Type} (v : α) (j : Joint) : (PerJoint.same v).get j = v := by
  fin_cases j <;> rfl

/-- Two values per joint are equal when they agree at every joint. -/
theorem PerJoint.ext_get {α : Type} {p q : PerJoint α} (h : ∀ j, p.get j = q.get j) : p = q := by
  obtain ⟨p0, p1, p2⟩ := p
  obtain ⟨q0, q1, q2⟩ := q
  have h0 := h 0
  have h1 := h 1
  have h2 := h 2
  simp only [PerJoint.get] at h0 h1 h2
  rw [h0, h1, h2]

@[simp] theorem PerJoint.set_set {α : Type} (p : PerJoint α) (j : Joint) (v w : α) :
    (p.set j v).set j w = p.set j w :=
  PerJoint.ext_get fun k => by by_cases h : j = k <;> simp [h]

@[simp] theorem PerJoint.set_get {α : Type} (p : PerJoint α) (j : Joint) : p.set j (p.get j) = p :=
  PerJoint.ext_get fun k => by by_cases h : j = k <;> simp [h]

end Sys2Proof

namespace Sys2Proof.Machine

variable (s : State)

/-! setJ -/

@[simp] theorem State.setJ_J (j : Joint) (v : JointState) : (s.setJ j v).J = s.J.set j v := rfl
@[simp] theorem State.setJ_P (j : Joint) (v : JointState) : (s.setJ j v).P = s.P := rfl
@[simp] theorem State.setJ_MEN (j : Joint) (v : JointState) : (s.setJ j v).MEN = s.MEN := rfl
@[simp] theorem State.setJ_GRIP (j : Joint) (v : JointState) : (s.setJ j v).GRIP = s.GRIP := rfl
@[simp] theorem State.setJ_DPH (j : Joint) (v : JointState) : (s.setJ j v).DPH = s.DPH := rfl
@[simp] theorem State.setJ_C (j : Joint) (v : JointState) : (s.setJ j v).C = s.C := rfl
@[simp] theorem State.setJ_ACT (j : Joint) (v : JointState) : (s.setJ j v).ACT = s.ACT := rfl
@[simp] theorem State.setJ_Y (j : Joint) (v : JointState) : (s.setJ j v).Y = s.Y := rfl
@[simp] theorem State.setJ_uop (j : Joint) (v : JointState) : (s.setJ j v).uop = s.uop := rfl
@[simp] theorem State.setJ_burst (j : Joint) (v : JointState) : (s.setJ j v).burst = s.burst := rfl
@[simp] theorem State.setJ_tx (j : Joint) (v : JointState) : (s.setJ j v).tx = s.tx := rfl
@[simp] theorem State.setJ_events (j : Joint) (v : JointState) : (s.setJ j v).events = s.events := rfl
@[simp] theorem State.setJ_inputs (j : Joint) (v : JointState) : (s.setJ j v).inputs = s.inputs := rfl
@[simp] theorem State.setJ_draws (j : Joint) (v : JointState) : (s.setJ j v).draws = s.draws := rfl

/-! setP -/

@[simp] theorem State.setP_J (j : Joint) (v : PidState) : (s.setP j v).J = s.J := rfl
@[simp] theorem State.setP_P (j : Joint) (v : PidState) : (s.setP j v).P = s.P.set j v := rfl
@[simp] theorem State.setP_MEN (j : Joint) (v : PidState) : (s.setP j v).MEN = s.MEN := rfl
@[simp] theorem State.setP_GRIP (j : Joint) (v : PidState) : (s.setP j v).GRIP = s.GRIP := rfl
@[simp] theorem State.setP_DPH (j : Joint) (v : PidState) : (s.setP j v).DPH = s.DPH := rfl
@[simp] theorem State.setP_C (j : Joint) (v : PidState) : (s.setP j v).C = s.C := rfl
@[simp] theorem State.setP_ACT (j : Joint) (v : PidState) : (s.setP j v).ACT = s.ACT := rfl
@[simp] theorem State.setP_Y (j : Joint) (v : PidState) : (s.setP j v).Y = s.Y := rfl
@[simp] theorem State.setP_uop (j : Joint) (v : PidState) : (s.setP j v).uop = s.uop := rfl
@[simp] theorem State.setP_burst (j : Joint) (v : PidState) : (s.setP j v).burst = s.burst := rfl
@[simp] theorem State.setP_tx (j : Joint) (v : PidState) : (s.setP j v).tx = s.tx := rfl
@[simp] theorem State.setP_events (j : Joint) (v : PidState) : (s.setP j v).events = s.events := rfl
@[simp] theorem State.setP_inputs (j : Joint) (v : PidState) : (s.setP j v).inputs = s.inputs := rfl
@[simp] theorem State.setP_draws (j : Joint) (v : PidState) : (s.setP j v).draws = s.draws := rfl

/-! setAct -/

@[simp] theorem State.setAct_J (j : Joint) (v : ActuatorState) : (s.setAct j v).J = s.J := rfl
@[simp] theorem State.setAct_P (j : Joint) (v : ActuatorState) : (s.setAct j v).P = s.P := rfl
@[simp] theorem State.setAct_MEN (j : Joint) (v : ActuatorState) : (s.setAct j v).MEN = s.MEN := rfl
@[simp] theorem State.setAct_GRIP (j : Joint) (v : ActuatorState) : (s.setAct j v).GRIP = s.GRIP := rfl
@[simp] theorem State.setAct_DPH (j : Joint) (v : ActuatorState) : (s.setAct j v).DPH = s.DPH := rfl
@[simp] theorem State.setAct_C (j : Joint) (v : ActuatorState) : (s.setAct j v).C = s.C := rfl
@[simp] theorem State.setAct_ACT (j : Joint) (v : ActuatorState) : (s.setAct j v).ACT = s.ACT.set j v := rfl
@[simp] theorem State.setAct_Y (j : Joint) (v : ActuatorState) : (s.setAct j v).Y = s.Y := rfl
@[simp] theorem State.setAct_uop (j : Joint) (v : ActuatorState) : (s.setAct j v).uop = s.uop := rfl
@[simp] theorem State.setAct_burst (j : Joint) (v : ActuatorState) : (s.setAct j v).burst = s.burst := rfl
@[simp] theorem State.setAct_tx (j : Joint) (v : ActuatorState) : (s.setAct j v).tx = s.tx := rfl
@[simp] theorem State.setAct_events (j : Joint) (v : ActuatorState) : (s.setAct j v).events = s.events := rfl
@[simp] theorem State.setAct_inputs (j : Joint) (v : ActuatorState) : (s.setAct j v).inputs = s.inputs := rfl
@[simp] theorem State.setAct_draws (j : Joint) (v : ActuatorState) : (s.setAct j v).draws = s.draws := rfl

/-! txBytes -/

@[simp] theorem State.txBytes_J (bs : List Byte) : (s.txBytes bs).J = s.J := rfl
@[simp] theorem State.txBytes_P (bs : List Byte) : (s.txBytes bs).P = s.P := rfl
@[simp] theorem State.txBytes_MEN (bs : List Byte) : (s.txBytes bs).MEN = s.MEN := rfl
@[simp] theorem State.txBytes_GRIP (bs : List Byte) : (s.txBytes bs).GRIP = s.GRIP := rfl
@[simp] theorem State.txBytes_DPH (bs : List Byte) : (s.txBytes bs).DPH = s.DPH := rfl
@[simp] theorem State.txBytes_C (bs : List Byte) : (s.txBytes bs).C = s.C := rfl
@[simp] theorem State.txBytes_ACT (bs : List Byte) : (s.txBytes bs).ACT = s.ACT := rfl
@[simp] theorem State.txBytes_Y (bs : List Byte) : (s.txBytes bs).Y = s.Y := rfl
@[simp] theorem State.txBytes_uop (bs : List Byte) : (s.txBytes bs).uop = s.uop := rfl
@[simp] theorem State.txBytes_burst (bs : List Byte) : (s.txBytes bs).burst = s.burst := rfl
@[simp] theorem State.txBytes_tx (bs : List Byte) : (s.txBytes bs).tx = s.tx ++ bs := rfl
@[simp] theorem State.txBytes_events (bs : List Byte) : (s.txBytes bs).events = s.events := rfl
@[simp] theorem State.txBytes_inputs (bs : List Byte) : (s.txBytes bs).inputs = s.inputs := rfl
@[simp] theorem State.txBytes_draws (bs : List Byte) : (s.txBytes bs).draws = s.draws := rfl

/-! drawn -/

@[simp] theorem State.drawn_J : (s.drawn).J = s.J := rfl
@[simp] theorem State.drawn_P : (s.drawn).P = s.P := rfl
@[simp] theorem State.drawn_MEN : (s.drawn).MEN = s.MEN := rfl
@[simp] theorem State.drawn_GRIP : (s.drawn).GRIP = s.GRIP := rfl
@[simp] theorem State.drawn_DPH : (s.drawn).DPH = s.DPH := rfl
@[simp] theorem State.drawn_C : (s.drawn).C = s.C := rfl
@[simp] theorem State.drawn_ACT : (s.drawn).ACT = s.ACT := rfl
@[simp] theorem State.drawn_Y : (s.drawn).Y = s.Y := rfl
@[simp] theorem State.drawn_uop : (s.drawn).uop = s.uop := rfl
@[simp] theorem State.drawn_burst : (s.drawn).burst = s.burst := rfl
@[simp] theorem State.drawn_tx : (s.drawn).tx = s.tx := rfl
@[simp] theorem State.drawn_events : (s.drawn).events = s.events := rfl
@[simp] theorem State.drawn_inputs : (s.drawn).inputs = s.inputs := rfl
@[simp] theorem State.drawn_draws : (s.drawn).draws = s.draws + 1 := rfl

/-! setMen -/

@[simp] theorem State.setMen_J (v : Bool) : (s.setMen v).J = s.J := rfl
@[simp] theorem State.setMen_P (v : Bool) : (s.setMen v).P = s.P := rfl
@[simp] theorem State.setMen_MEN (v : Bool) : (s.setMen v).MEN = v := rfl
@[simp] theorem State.setMen_GRIP (v : Bool) : (s.setMen v).GRIP = s.GRIP := rfl
@[simp] theorem State.setMen_DPH (v : Bool) : (s.setMen v).DPH = s.DPH := rfl
@[simp] theorem State.setMen_C (v : Bool) : (s.setMen v).C = s.C := rfl
@[simp] theorem State.setMen_ACT (v : Bool) : (s.setMen v).ACT = s.ACT := rfl
@[simp] theorem State.setMen_Y (v : Bool) : (s.setMen v).Y = s.Y := rfl
@[simp] theorem State.setMen_uop (v : Bool) : (s.setMen v).uop = s.uop := rfl
@[simp] theorem State.setMen_burst (v : Bool) : (s.setMen v).burst = s.burst := rfl
@[simp] theorem State.setMen_tx (v : Bool) : (s.setMen v).tx = s.tx := rfl
@[simp] theorem State.setMen_events (v : Bool) : (s.setMen v).events = s.events := rfl
@[simp] theorem State.setMen_inputs (v : Bool) : (s.setMen v).inputs = s.inputs := rfl
@[simp] theorem State.setMen_draws (v : Bool) : (s.setMen v).draws = s.draws := rfl

/-! setFirst -/

@[simp] theorem State.setFirst_J (j : Joint) (v : Bool) : (s.setFirst j v).J = s.J := rfl
@[simp] theorem State.setFirst_P (j : Joint) (v : Bool) : (s.setFirst j v).P = s.P.set j { s.P.get j with first := v } := rfl
@[simp] theorem State.setFirst_MEN (j : Joint) (v : Bool) : (s.setFirst j v).MEN = s.MEN := rfl
@[simp] theorem State.setFirst_GRIP (j : Joint) (v : Bool) : (s.setFirst j v).GRIP = s.GRIP := rfl
@[simp] theorem State.setFirst_DPH (j : Joint) (v : Bool) : (s.setFirst j v).DPH = s.DPH := rfl
@[simp] theorem State.setFirst_C (j : Joint) (v : Bool) : (s.setFirst j v).C = s.C := rfl
@[simp] theorem State.setFirst_ACT (j : Joint) (v : Bool) : (s.setFirst j v).ACT = s.ACT := rfl
@[simp] theorem State.setFirst_Y (j : Joint) (v : Bool) : (s.setFirst j v).Y = s.Y := rfl
@[simp] theorem State.setFirst_uop (j : Joint) (v : Bool) : (s.setFirst j v).uop = s.uop := rfl
@[simp] theorem State.setFirst_burst (j : Joint) (v : Bool) : (s.setFirst j v).burst = s.burst := rfl
@[simp] theorem State.setFirst_tx (j : Joint) (v : Bool) : (s.setFirst j v).tx = s.tx := rfl
@[simp] theorem State.setFirst_events (j : Joint) (v : Bool) : (s.setFirst j v).events = s.events := rfl
@[simp] theorem State.setFirst_inputs (j : Joint) (v : Bool) : (s.setFirst j v).inputs = s.inputs := rfl
@[simp] theorem State.setFirst_draws (j : Joint) (v : Bool) : (s.setFirst j v).draws = s.draws := rfl

/-! startBurst -/

@[simp] theorem State.startBurst_J (l : List Access) : (s.startBurst l).J = s.J := rfl
@[simp] theorem State.startBurst_P (l : List Access) : (s.startBurst l).P = s.P := rfl
@[simp] theorem State.startBurst_MEN (l : List Access) : (s.startBurst l).MEN = s.MEN := rfl
@[simp] theorem State.startBurst_GRIP (l : List Access) : (s.startBurst l).GRIP = s.GRIP := rfl
@[simp] theorem State.startBurst_DPH (l : List Access) : (s.startBurst l).DPH = s.DPH := rfl
@[simp] theorem State.startBurst_C (l : List Access) : (s.startBurst l).C = s.C := rfl
@[simp] theorem State.startBurst_ACT (l : List Access) : (s.startBurst l).ACT = s.ACT := rfl
@[simp] theorem State.startBurst_Y (l : List Access) : (s.startBurst l).Y = s.Y := rfl
@[simp] theorem State.startBurst_uop (l : List Access) : (s.startBurst l).uop = s.uop := rfl
@[simp] theorem State.startBurst_burst (l : List Access) : (s.startBurst l).burst = s.burst ++ l := rfl
@[simp] theorem State.startBurst_tx (l : List Access) : (s.startBurst l).tx = s.tx := rfl
@[simp] theorem State.startBurst_events (l : List Access) : (s.startBurst l).events = s.events := rfl
@[simp] theorem State.startBurst_inputs (l : List Access) : (s.startBurst l).inputs = s.inputs := rfl
@[simp] theorem State.startBurst_draws (l : List Access) : (s.startBurst l).draws = s.draws := rfl

/-! The reset state -/

theorem reset_eq : State.reset = State.powerOn Configuration.atReset .opened := rfl

@[simp] theorem powerOn_J (c : Configuration) (g : Grip) : (State.powerOn c g).J = .same JointState.atReset := rfl
@[simp] theorem powerOn_P (c : Configuration) (g : Grip) : (State.powerOn c g).P = .same PidState.atReset := rfl
@[simp] theorem powerOn_MEN (c : Configuration) (g : Grip) : (State.powerOn c g).MEN = false := rfl
@[simp] theorem powerOn_DPH (c : Configuration) (g : Grip) : (State.powerOn c g).DPH = .waitOpcode := rfl
@[simp] theorem powerOn_C (c : Configuration) (g : Grip) : (State.powerOn c g).C = c := rfl
@[simp] theorem powerOn_ACT (c : Configuration) (g : Grip) :
    (State.powerOn c g).ACT = .same ⟨false, Fp.zero⟩ := rfl
@[simp] theorem powerOn_uop (c : Configuration) (g : Grip) : (State.powerOn c g).uop = none := rfl
@[simp] theorem powerOn_burst (c : Configuration) (g : Grip) : (State.powerOn c g).burst = [] := rfl

end Sys2Proof.Machine
end

