-- ==== Sys2Proof/Laws/Ops.lean ====
section
/-! SUPPORT. One lemma per shared operation that says everything it can do, and what each leaves unchanged
field by field. -/

namespace Sys2Proof.Machine

variable (s : State)

/-! Free values and clamp (U1, R12) -/

/-- Everything `clampFree` can do: a NaN draws one free value, anything else is clamped. -/
theorem clampFree_cases (x lo hi : Fp) :
    (Fp.isNaN x = true ∧ s.clampFree x lo hi = (Config.freeFp s.draws, s.drawn)) ∨
    (Fp.isNaN x = false ∧ s.clampFree x lo hi = (clamp x lo hi, s)) := by
  cases h : Fp.isNaN x <;> simp [State.clampFree, h]

theorem clampFree_of_not_nan {x : Fp} (h : Fp.isNaN x = false) (lo hi : Fp) :
    s.clampFree x lo hi = (clamp x lo hi, s) := by
  simp [State.clampFree, h]

theorem clampFree_of_nan {x : Fp} (h : Fp.isNaN x = true) (lo hi : Fp) :
    s.clampFree x lo hi = (Config.freeFp s.draws, s.drawn) := by
  simp [State.clampFree, h]

/-- `clampFree` writes the counter of drawn values and nothing else. -/
theorem clampFree_frame (x lo hi : Fp) :
    (s.clampFree x lo hi).2 = { s with draws := (s.clampFree x lo hi).2.draws } := by
  rcases clampFree_cases s x lo hi with ⟨_, h⟩ | ⟨_, h⟩
  · rw [h]
    rfl
  · rw [h]

@[simp] theorem clampFree_J (x lo hi : Fp) : ((s.clampFree x lo hi).2).J = s.J := by rw [clampFree_frame]
@[simp] theorem clampFree_P (x lo hi : Fp) : ((s.clampFree x lo hi).2).P = s.P := by rw [clampFree_frame]
@[simp] theorem clampFree_MEN (x lo hi : Fp) : ((s.clampFree x lo hi).2).MEN = s.MEN := by rw [clampFree_frame]
@[simp] theorem clampFree_GRIP (x lo hi : Fp) : ((s.clampFree x lo hi).2).GRIP = s.GRIP := by rw [clampFree_frame]
@[simp] theorem clampFree_DPH (x lo hi : Fp) : ((s.clampFree x lo hi).2).DPH = s.DPH := by rw [clampFree_frame]
@[simp] theorem clampFree_C (x lo hi : Fp) : ((s.clampFree x lo hi).2).C = s.C := by rw [clampFree_frame]
@[simp] theorem clampFree_ACT (x lo hi : Fp) : ((s.clampFree x lo hi).2).ACT = s.ACT := by rw [clampFree_frame]
@[simp] theorem clampFree_Y (x lo hi : Fp) : ((s.clampFree x lo hi).2).Y = s.Y := by rw [clampFree_frame]
@[simp] theorem clampFree_burst (x lo hi : Fp) : ((s.clampFree x lo hi).2).burst = s.burst := by rw [clampFree_frame]
@[simp] theorem clampFree_uop (x lo hi : Fp) : ((s.clampFree x lo hi).2).uop = s.uop := by rw [clampFree_frame]
@[simp] theorem clampFree_tx (x lo hi : Fp) : ((s.clampFree x lo hi).2).tx = s.tx := by rw [clampFree_frame]
@[simp] theorem clampFree_events (x lo hi : Fp) : ((s.clampFree x lo hi).2).events = s.events := by rw [clampFree_frame]
@[simp] theorem clampFree_inputs (x lo hi : Fp) : ((s.clampFree x lo hi).2).inputs = s.inputs := by rw [clampFree_frame]

/-! Fields -/

/-- Reading a field of a joint after writing one (R13, R20). -/
theorem readField_writeField (j k : Joint) (f g : FpField) (v : Fp) :
    (s.writeField j f v).readField k g = if j = k ∧ f = g then v else s.readField k g := by
  by_cases h : j = k
  · subst h
    cases f <;> cases g <;> simp [State.writeField, State.readField]
  · cases f <;> cases g <;> simp [State.writeField, State.readField, h]

/-- Writing a field writes one record of `J` or of `P` and nothing else. -/
theorem writeField_frame (j : Joint) (f : FpField) (v : Fp) :
    s.writeField j f v = { s with J := (s.writeField j f v).J, P := (s.writeField j f v).P } := by
  cases f <;> rfl

@[simp] theorem writeField_MEN (j : Joint) (f : FpField) (v : Fp) : (s.writeField j f v).MEN = s.MEN := by rw [writeField_frame]
@[simp] theorem writeField_GRIP (j : Joint) (f : FpField) (v : Fp) : (s.writeField j f v).GRIP = s.GRIP := by rw [writeField_frame]
@[simp] theorem writeField_DPH (j : Joint) (f : FpField) (v : Fp) : (s.writeField j f v).DPH = s.DPH := by rw [writeField_frame]
@[simp] theorem writeField_C (j : Joint) (f : FpField) (v : Fp) : (s.writeField j f v).C = s.C := by rw [writeField_frame]
@[simp] theorem writeField_ACT (j : Joint) (f : FpField) (v : Fp) : (s.writeField j f v).ACT = s.ACT := by rw [writeField_frame]
@[simp] theorem writeField_Y (j : Joint) (f : FpField) (v : Fp) : (s.writeField j f v).Y = s.Y := by rw [writeField_frame]
@[simp] theorem writeField_burst (j : Joint) (f : FpField) (v : Fp) : (s.writeField j f v).burst = s.burst := by rw [writeField_frame]
@[simp] theorem writeField_uop (j : Joint) (f : FpField) (v : Fp) : (s.writeField j f v).uop = s.uop := by rw [writeField_frame]
@[simp] theorem writeField_tx (j : Joint) (f : FpField) (v : Fp) : (s.writeField j f v).tx = s.tx := by rw [writeField_frame]
@[simp] theorem writeField_events (j : Joint) (f : FpField) (v : Fp) : (s.writeField j f v).events = s.events := by rw [writeField_frame]
@[simp] theorem writeField_inputs (j : Joint) (f : FpField) (v : Fp) : (s.writeField j f v).inputs = s.inputs := by rw [writeField_frame]
@[simp] theorem writeField_draws (j : Joint) (f : FpField) (v : Fp) : (s.writeField j f v).draws = s.draws := by rw [writeField_frame]

/-- Storing one byte of a field writes one record of `J` or of `P` and nothing else. -/
theorem storeByte_frame (j : Joint) (f : FpField) (i : Fin 4) (v : Fp) :
    s.storeByte j f i v = { s with J := (s.storeByte j f i v).J, P := (s.storeByte j f i v).P } :=
  writeField_frame s j f _

/-- Every answer an Encoder Channel computes is finite (R201). -/
theorem isFinite_readAngle (j : Joint) (p : BitVec 14) : Fp.isFinite (s.readAngle j p) = true :=
  Fp.isFinite_finitePart _

/-! The Actuator Channels and events (R204 to R207, R15) -/

/-- Everything `set_cmd` can do: nothing while disarmed; while armed it writes the clamped pulse width of R207,
or a free value where that is a NaN. -/
theorem setCmd_cases (j : Joint) (cmd : Fp) :
    ((s.ACT.get j).armed = false ∧ s.setCmd j cmd = s) ∨
    ((s.ACT.get j).armed = true ∧ Fp.isNaN (pulseOf (s.C.act.get j) cmd) = false ∧
      s.setCmd j cmd = s.setAct j ⟨true, clamp (pulseOf (s.C.act.get j) cmd) (s.C.act.get j).pulse_min
        (s.C.act.get j).pulse_max⟩) ∨
    ((s.ACT.get j).armed = true ∧ Fp.isNaN (pulseOf (s.C.act.get j) cmd) = true ∧
      s.setCmd j cmd = s.drawn.setAct j ⟨true, Config.freeFp s.draws⟩) := by
  cases h : (s.ACT.get j).armed
  · simp [State.setCmd, h]
  · rcases clampFree_cases s (pulseOf (s.C.act.get j) cmd) (s.C.act.get j).pulse_min
      (s.C.act.get j).pulse_max with ⟨hn, hc⟩ | ⟨hn, hc⟩
    · exact Or.inr (Or.inr ⟨rfl, hn, by simp [State.setCmd, h, hc]⟩)
    · exact Or.inr (Or.inl ⟨rfl, hn, by simp [State.setCmd, h, hc]⟩)

/-- `set_cmd` writes one Actuator Channel and the counter of drawn values, nothing else. -/
theorem setCmd_frame (j : Joint) (cmd : Fp) :
    s.setCmd j cmd = { s with ACT := (s.setCmd j cmd).ACT, draws := (s.setCmd j cmd).draws } := by
  rcases setCmd_cases s j cmd with ⟨_, h⟩ | ⟨_, _, h⟩ | ⟨_, _, h⟩ <;> rw [h] <;> rfl

/-- The reaction to an event writes Actuator Channels and the counter of drawn values, nothing else. -/
theorem react_frame (e : Event) : s.react e = { s with ACT := (s.react e).ACT, draws := (s.react e).draws } := by
  cases e <;> first | rfl | exact setCmd_frame s _ _ | (simp only [State.react]; rw [setCmd_frame]; rfl)

/-- Emitting writes the event stream, Actuator Channels and the counter of drawn values, nothing else. -/
theorem emit_frame (e : Event) :
    s.emit e = { s with events := s.events ++ [e], ACT := (s.emit e).ACT, draws := (s.emit e).draws } := by
  unfold State.emit
  rw [react_frame]

@[simp] theorem emit_events (e : Event) : (s.emit e).events = s.events ++ [e] := by rw [emit_frame]

@[simp] theorem emit_J (e : Event) : (s.emit e).J = s.J := by rw [emit_frame]
@[simp] theorem emit_P (e : Event) : (s.emit e).P = s.P := by rw [emit_frame]
@[simp] theorem emit_MEN (e : Event) : (s.emit e).MEN = s.MEN := by rw [emit_frame]
@[simp] theorem emit_GRIP (e : Event) : (s.emit e).GRIP = s.GRIP := by rw [emit_frame]
@[simp] theorem emit_DPH (e : Event) : (s.emit e).DPH = s.DPH := by rw [emit_frame]
@[simp] theorem emit_C (e : Event) : (s.emit e).C = s.C := by rw [emit_frame]
@[simp] theorem emit_Y (e : Event) : (s.emit e).Y = s.Y := by rw [emit_frame]
@[simp] theorem emit_burst (e : Event) : (s.emit e).burst = s.burst := by rw [emit_frame]
@[simp] theorem emit_uop (e : Event) : (s.emit e).uop = s.uop := by rw [emit_frame]
@[simp] theorem emit_tx (e : Event) : (s.emit e).tx = s.tx := by rw [emit_frame]
@[simp] theorem emit_inputs (e : Event) : (s.emit e).inputs = s.inputs := by rw [emit_frame]

/-- Emitting several events writes what emitting one writes. -/
theorem emitAll_frame (es : List Event) :
    s.emitAll es = { s with
      events := s.events ++ es, ACT := (s.emitAll es).ACT, draws := (s.emitAll es).draws } := by
  induction es generalizing s with
  | nil => simp [State.emitAll]
  | cons e es ih =>
    have h : s.emitAll (e :: es) = (s.emit e).emitAll es := rfl
    rw [h, ih (s.emit e)]
    simp

@[simp] theorem emitAll_events (es : List Event) : (s.emitAll es).events = s.events ++ es := by rw [emitAll_frame]

@[simp] theorem emitAll_J (es : List Event) : (s.emitAll es).J = s.J := by rw [emitAll_frame]
@[simp] theorem emitAll_P (es : List Event) : (s.emitAll es).P = s.P := by rw [emitAll_frame]
@[simp] theorem emitAll_MEN (es : List Event) : (s.emitAll es).MEN = s.MEN := by rw [emitAll_frame]
@[simp] theorem emitAll_GRIP (es : List Event) : (s.emitAll es).GRIP = s.GRIP := by rw [emitAll_frame]
@[simp] theorem emitAll_DPH (es : List Event) : (s.emitAll es).DPH = s.DPH := by rw [emitAll_frame]
@[simp] theorem emitAll_C (es : List Event) : (s.emitAll es).C = s.C := by rw [emitAll_frame]
@[simp] theorem emitAll_Y (es : List Event) : (s.emitAll es).Y = s.Y := by rw [emitAll_frame]
@[simp] theorem emitAll_burst (es : List Event) : (s.emitAll es).burst = s.burst := by rw [emitAll_frame]
@[simp] theorem emitAll_uop (es : List Event) : (s.emitAll es).uop = s.uop := by rw [emitAll_frame]
@[simp] theorem emitAll_tx (es : List Event) : (s.emitAll es).tx = s.tx := by rw [emitAll_frame]
@[simp] theorem emitAll_inputs (es : List Event) : (s.emitAll es).inputs = s.inputs := by rw [emitAll_frame]

/-! The micro-operations (R111, R113, R141) -/

@[simp] theorem pidReset_eq (j : Joint) : pidReset j s = s.setP j PidState.atReset := rfl

theorem velSample_eq (j : Joint) (a : Fp) :
    velSample j a s = { s with J := s.J.set j ⟨(s.J.get j).setpoint, a, velocityOf s j a,
      (s.J.get j).voltage_cmd, a⟩ } := rfl

/-- Everything `PID.UPDATE` does: the result is the clamp of `u_unsat`, or any value if that is a NaN; the
state gets the three fields of `P[j]`, the bus `Y` and the counter of drawn values. -/
theorem pidUpdate_eq (j : Joint) (e ff : Fp) :
    pidUpdate j e ff s =
      ((s.clampFree (pidUnsat s j e ff) (s.C.u_min.get j) (s.C.u_max.get j)).1,
        { s with
          P := s.P.set j ⟨pidUiStored s j e ff, e, false⟩
          Y := (s.clampFree (pidUnsat s j e ff) (s.C.u_min.get j) (s.C.u_max.get j)).1
          draws := (s.clampFree (pidUnsat s j e ff) (s.C.u_min.get j) (s.C.u_max.get j)).2.draws }) := by
  rcases clampFree_cases s (pidUnsat s j e ff) (s.C.u_min.get j) (s.C.u_max.get j) with ⟨_, h⟩ | ⟨_, h⟩
  · simp only [pidUpdate, h]
    rfl
  · simp only [pidUpdate, h]
    rfl

@[simp] theorem pidUpdate_P (j : Joint) (e ff : Fp) :
    (pidUpdate j e ff s).2.P = s.P.set j ⟨pidUiStored s j e ff, e, false⟩ := by rw [pidUpdate_eq]

@[simp] theorem pidUpdate_Y (j : Joint) (e ff : Fp) : (pidUpdate j e ff s).2.Y = (pidUpdate j e ff s).1 := rfl

@[simp] theorem pidUpdate_J (j : Joint) (e ff : Fp) : ((pidUpdate j e ff s).2).J = s.J := by rw [pidUpdate_eq]
@[simp] theorem pidUpdate_MEN (j : Joint) (e ff : Fp) : ((pidUpdate j e ff s).2).MEN = s.MEN := by rw [pidUpdate_eq]
@[simp] theorem pidUpdate_GRIP (j : Joint) (e ff : Fp) : ((pidUpdate j e ff s).2).GRIP = s.GRIP := by rw [pidUpdate_eq]
@[simp] theorem pidUpdate_DPH (j : Joint) (e ff : Fp) : ((pidUpdate j e ff s).2).DPH = s.DPH := by rw [pidUpdate_eq]
@[simp] theorem pidUpdate_C (j : Joint) (e ff : Fp) : ((pidUpdate j e ff s).2).C = s.C := by rw [pidUpdate_eq]
@[simp] theorem pidUpdate_ACT (j : Joint) (e ff : Fp) : ((pidUpdate j e ff s).2).ACT = s.ACT := by rw [pidUpdate_eq]
@[simp] theorem pidUpdate_burst (j : Joint) (e ff : Fp) : ((pidUpdate j e ff s).2).burst = s.burst := by rw [pidUpdate_eq]
@[simp] theorem pidUpdate_uop (j : Joint) (e ff : Fp) : ((pidUpdate j e ff s).2).uop = s.uop := by rw [pidUpdate_eq]
@[simp] theorem pidUpdate_tx (j : Joint) (e ff : Fp) : ((pidUpdate j e ff s).2).tx = s.tx := by rw [pidUpdate_eq]
@[simp] theorem pidUpdate_events (j : Joint) (e ff : Fp) : ((pidUpdate j e ff s).2).events = s.events := by rw [pidUpdate_eq]
@[simp] theorem pidUpdate_inputs (j : Joint) (e ff : Fp) : ((pidUpdate j e ff s).2).inputs = s.inputs := by rw [pidUpdate_eq]

/-! The control cycle (R150) -/

/-- What the enabled path of a joint leaves: everything but `J[j].voltage_cmd`, `P[j]`, the bus `Y`, the event
stream, the Actuator Channels and the counter of drawn values. -/
theorem servoJoint_frame (j : Joint) :
    servoJoint j s = { s with
      J := s.J.set j { s.J.get j with voltage_cmd := (pidUpdate j (jointError s j) Fp.zero s).1 }
      P := s.P.set j ⟨pidUiStored s j (jointError s j) Fp.zero, jointError s j, false⟩
      Y := (pidUpdate j (jointError s j) Fp.zero s).1
      events := s.events ++ [.actSet j (pidUpdate j (jointError s j) Fp.zero s).1]
      ACT := (servoJoint j s).ACT
      draws := (servoJoint j s).draws } := by
  unfold servoJoint
  simp only
  rw [emit_frame]
  simp [State.writeField]

/-- What one joint's part of a TICK leaves, whatever `MEN`. -/
theorem tickJoint_frame (j : Joint) (a : Fp) :
    tickJoint j a s = { s with
      J := (tickJoint j a s).J, P := (tickJoint j a s).P, Y := (tickJoint j a s).Y,
      events := (tickJoint j a s).events, ACT := (tickJoint j a s).ACT, draws := (tickJoint j a s).draws } := by
  unfold tickJoint
  simp only
  split
  · rw [servoJoint_frame]
    simp [velSample]
  · simp only [velSample, State.setJ]
    rw [emit_frame]

/-- A TICK writes `J`, `P`, the bus `Y`, the event stream, the Actuator Channels and the counter of drawn values;
nothing else (R150, R154, R224). -/
theorem tick_frame (a : PerJoint Fp) :
    tick a s = { s with
      J := (tick a s).J, P := (tick a s).P, Y := (tick a s).Y,
      events := (tick a s).events, ACT := (tick a s).ACT, draws := (tick a s).draws } := by
  unfold tick
  rw [tickJoint_frame, tickJoint_frame _ 1, tickJoint_frame _ 0]

@[simp] theorem tickJoint_MEN (j : Joint) (a : Fp) : (tickJoint j a s).MEN = s.MEN := by rw [tickJoint_frame]
@[simp] theorem tickJoint_GRIP (j : Joint) (a : Fp) : (tickJoint j a s).GRIP = s.GRIP := by rw [tickJoint_frame]
@[simp] theorem tickJoint_DPH (j : Joint) (a : Fp) : (tickJoint j a s).DPH = s.DPH := by rw [tickJoint_frame]
@[simp] theorem tickJoint_C (j : Joint) (a : Fp) : (tickJoint j a s).C = s.C := by rw [tickJoint_frame]
@[simp] theorem tickJoint_burst (j : Joint) (a : Fp) : (tickJoint j a s).burst = s.burst := by rw [tickJoint_frame]
@[simp] theorem tickJoint_uop (j : Joint) (a : Fp) : (tickJoint j a s).uop = s.uop := by rw [tickJoint_frame]
@[simp] theorem tickJoint_tx (j : Joint) (a : Fp) : (tickJoint j a s).tx = s.tx := by rw [tickJoint_frame]
@[simp] theorem tickJoint_inputs (j : Joint) (a : Fp) : (tickJoint j a s).inputs = s.inputs := by rw [tickJoint_frame]

@[simp] theorem tick_MEN (a : PerJoint Fp) : (tick a s).MEN = s.MEN := by rw [tick_frame]
@[simp] theorem tick_GRIP (a : PerJoint Fp) : (tick a s).GRIP = s.GRIP := by rw [tick_frame]
@[simp] theorem tick_DPH (a : PerJoint Fp) : (tick a s).DPH = s.DPH := by rw [tick_frame]
@[simp] theorem tick_C (a : PerJoint Fp) : (tick a s).C = s.C := by rw [tick_frame]
@[simp] theorem tick_burst (a : PerJoint Fp) : (tick a s).burst = s.burst := by rw [tick_frame]
@[simp] theorem tick_uop (a : PerJoint Fp) : (tick a s).uop = s.uop := by rw [tick_frame]
@[simp] theorem tick_tx (a : PerJoint Fp) : (tick a s).tx = s.tx := by rw [tick_frame]
@[simp] theorem tick_inputs (a : PerJoint Fp) : (tick a s).inputs = s.inputs := by rw [tick_frame]

/-! Host commands and their accesses (R59, R58) -/

/-- Everything a host command's outcome can be. -/
theorem runCommand_cases (f : State → State) (l : List Access) :
    (s.C.SNAP = .guarded ∧ runCommand f l s = .next (f s)) ∨
    (s.C.SNAP = .unguarded ∧ runCommand f l s = .next (s.startBurst l)) := by
  cases h : s.C.SNAP <;> simp [runCommand, h]

theorem runCommand_guarded (f : State → State) (l : List Access) (h : s.C.SNAP = .guarded) :
    runCommand f l s = .next (f s) := by simp [runCommand, h]

theorem runCommand_unguarded (f : State → State) (l : List Access) (h : s.C.SNAP = .unguarded) :
    runCommand f l s = .next (s.startBurst l) := by simp [runCommand, h]

/-- What one access leaves: the configuration, `Y`, the pending accesses and the inputs. -/
theorem perform_frame (pick : Nat) (a : Access) :
    (a.perform pick s).1 = { s with
      J := (a.perform pick s).1.J, P := (a.perform pick s).1.P, MEN := (a.perform pick s).1.MEN
      GRIP := (a.perform pick s).1.GRIP, DPH := (a.perform pick s).1.DPH, ACT := (a.perform pick s).1.ACT, tx := (a.perform pick s).1.tx
      events := (a.perform pick s).1.events, draws := (a.perform pick s).1.draws } := by
  cases a with
  | store j f w left =>
    cases left with
    | nil => rfl
    | cons b bs =>
      simp only [Access.perform]
      rw [storeByte_frame]
  | emit e =>
    simp only [Access.perform]
    rw [emit_frame]
  | send j f i => rfl
  | setFirst j => rfl
  | setMen v => rfl
  | setGrip g => rfl
  | endPayload => rfl

/-- Only the last access of a SETPOINT writes the dispatcher phase (R170). -/
theorem perform_DPH (pick : Nat) (a : Access) :
    (a.perform pick s).1.DPH = if a = .endPayload then .waitOpcode else s.DPH := by
  cases a with
  | store j f w left => cases left <;> simp [Access.perform, State.storeByte]
  | _ => simp [Access.perform]

/-- One access brings itself one byte or one action nearer to its end. -/
theorem perform_size (pick : Nat) (a : Access) : burstSize (a.perform pick s).2 + 1 = max a.size 1 := by
  cases a with
  | store j f w left =>
    cases left with
    | nil => rfl
    | cons b bs =>
      have hm : chosenByte (b :: bs) pick ∈ b :: bs := by
        simp only [chosenByte, List.getD_eq_getElem?_getD]
        rw [List.getElem?_eq_getElem (Nat.mod_lt _ (by simp))]
        simp
      have hl := List.length_erase_of_mem hm
      simp only [Access.perform]
      split
      · rename_i h
        rw [List.isEmpty_iff.1 h] at hl
        simp only [List.length_nil, List.length_cons, burstSize, Access.size, List.map_nil, List.sum_nil] at *
        omega
      · simp only [List.length_cons, burstSize, Access.size, List.map_nil, List.sum_nil, List.map_cons,
          List.sum_cons] at *
        omega
  | send j f i => rfl
  | setFirst j => rfl
  | setMen v => rfl
  | setGrip g => rfl
  | emit e => rfl
  | endPayload => rfl

/-- Everything a run of the foreground context can do: wait, or make the first pending access. -/
theorem foreground_cases (pick : Nat) :
    (s.burst = [] ∧ foreground pick s = s) ∨
    (∃ a rest, s.burst = a :: rest ∧
      foreground pick s = { (a.perform pick s).1 with burst := (a.perform pick s).2 ++ rest }) := by
  cases h : s.burst with
  | nil => simp [foreground, h]
  | cons a rest => exact Or.inr ⟨a, rest, rfl, by simp [foreground, h]⟩

end Sys2Proof.Machine
end

