-- ==== Sys2Proof/Laws/PerInstr.lean ====
section
/-! SUPPORT. Statements for all instructions, one lemma per constructor. -/

namespace Sys2Proof.Laws.EncodesToItsRow

/-- What the opcode table says of an instruction's code (30_encoding.md R85, R91): the opcode byte and the
length of a host command, the operation field of a micro-operation. -/
def Statement (i : Instr) : Prop :=
  match i, encode i with
  | .enable, .host bs => bs = [0x01#8]
  | .disable, .host bs => bs = [0x02#8]
  | .getstate, .host bs => bs = [0x03#8]
  | .setpoint _ _ _, .host bs => bs.head? = some 0x04#8 ∧ bs.length = 13
  | .gripopen, .host bs => bs = [0x05#8]
  | .gripclose, .host bs => bs = [0x06#8]
  | .velSample j _, .micro w _ _ => w = 0#2 ++ fieldOfJoint j ∧ microOpWellFormed w = true
  | .pidUpdate j _ _, .micro w _ _ => w = 1#2 ++ fieldOfJoint j ∧ microOpWellFormed w = true
  | .pidReset j, .micro w _ _ => w = 2#2 ++ fieldOfJoint j ∧ microOpWellFormed w = true
  | _, _ => False

theorem enable : Statement .enable := rfl
theorem disable : Statement .disable := rfl
theorem getstate : Statement .getstate := rfl
theorem setpoint (a b c : Fp) : Statement (.setpoint a b c) := ⟨rfl, rfl⟩
theorem gripopen : Statement .gripopen := rfl
theorem gripclose : Statement .gripclose := rfl
theorem velSample (j : Joint) (a : Fp) : Statement (.velSample j a) := ⟨rfl, by revert j; decide⟩
theorem pidUpdate (j : Joint) (e ff : Fp) : Statement (.pidUpdate j e ff) := ⟨rfl, by revert j; decide⟩
theorem pidReset (j : Joint) : Statement (.pidReset j) := ⟨rfl, by revert j; decide⟩

end Sys2Proof.Laws.EncodesToItsRow
end

