-- ==== Sys2Proof/Laws/Step.lean ====
section
/-! SUPPORT. What a step and an instruction can answer: the inversion lemmas every claim about runs
starts from. -/

namespace Sys2Proof.Machine

variable {s t : State}

/-- Every instruction answers a next state, from every state: the block refuses and traps nothing (R220). -/
theorem exec_answers_next (i : Instr) (s : State) : ∃ t, exec i s = .next t := by
  cases i with
  | velSample j a => exact ⟨_, rfl⟩
  | pidUpdate j e ff => exact ⟨_, rfl⟩
  | pidReset j => exact ⟨_, rfl⟩
  | enable => rcases runCommand_cases s enableAtOnce enableAccesses with ⟨_, h⟩ | ⟨_, h⟩ <;> exact ⟨_, h⟩
  | disable => rcases runCommand_cases s disableAtOnce disableAccesses with ⟨_, h⟩ | ⟨_, h⟩ <;> exact ⟨_, h⟩
  | getstate => rcases runCommand_cases s getstateAtOnce getstateAccesses with ⟨_, h⟩ | ⟨_, h⟩ <;> exact ⟨_, h⟩
  | setpoint a b c =>
    rcases runCommand_cases (clampSetpoints a b c s).2 (storeSetpoints (clampSetpoints a b c s).1)
      (setpointAccesses (clampSetpoints a b c s).1) with ⟨_, h⟩ | ⟨_, h⟩ <;> exact ⟨_, h⟩
  | gripopen =>
    rcases runCommand_cases s (gripAtOnce .opened .gripOpen) [.setGrip .opened, .emit .gripOpen] with
      ⟨_, h⟩ | ⟨_, h⟩ <;> exact ⟨_, h⟩
  | gripclose =>
    rcases runCommand_cases s (gripAtOnce .closed .gripClose) [.setGrip .closed, .emit .gripClose] with
      ⟨_, h⟩ | ⟨_, h⟩ <;> exact ⟨_, h⟩

/-- Everything the twelfth payload byte does: the command answers a next state, and `DPH <- WaitOpcode` follows, at
once under `guarded`, as the last access under `unguarded` (R170, R13). -/
theorem commitPayload_cases (i : Instr) (s : State) : ∃ u, exec i s = .next u ∧
    ((u.C.SNAP = .guarded ∧ commitPayload i s = .next { u with DPH := .waitOpcode }) ∨
      (u.C.SNAP = .unguarded ∧ commitPayload i s = .next (u.startBurst [.endPayload]))) := by
  obtain ⟨u, h⟩ := exec_answers_next i s
  refine ⟨u, h, ?_⟩
  simp only [commitPayload, h, endPayload]
  exact runCommand_cases u _ _

/-- Everything a dispatcher step can do (R170): run a decoded instruction, open or extend the payload phase,
close a phase whose buffer no command fits, or ignore the byte. -/
theorem dispatcherStep_cases {b : Byte} (h : dispatcherStep b s = .next t) :
    (s.DPH = .waitOpcode ∧ ∃ i rest, decode [b] = .instr i rest ∧ exec i s = .next t) ∨
    (s.DPH = .waitOpcode ∧ decode [b] = .incomplete ∧ t = { s with DPH := .rxSetpoint [] }) ∨
    (s.DPH = .waitOpcode ∧ (∃ rest, decode [b] = .unrecognised b rest) ∧ t = s) ∨
    (∃ buf, s.DPH = .rxSetpoint buf ∧ buf.length + 1 < 12 ∧ t = { s with DPH := .rxSetpoint (buf ++ [b]) }) ∨
    (∃ buf i rest, s.DPH = .rxSetpoint buf ∧ 12 ≤ buf.length + 1 ∧
      decode (0x04#8 :: (buf ++ [b])) = .instr i rest ∧ commitPayload i s = .next t) ∨
    (∃ buf, s.DPH = .rxSetpoint buf ∧ 12 ≤ buf.length + 1 ∧ t = { s with DPH := .waitOpcode }) := by
  unfold dispatcherStep at h
  split at h
  · rename_i hd
    split at h
    · rename_i i rest hi
      exact Or.inl ⟨hd, i, rest, hi, h⟩
    · rename_i hi
      cases h
      exact Or.inr (Or.inl ⟨hd, hi, rfl⟩)
    · rename_i o rest hi
      cases h
      have ho : o = b := (decode_unrecognised hi).1
      subst ho
      exact Or.inr (Or.inr (Or.inl ⟨hd, ⟨rest, hi⟩, rfl⟩))
  · rename_i buf hd
    split at h
    · rename_i hl
      cases h
      exact Or.inr (Or.inr (Or.inr (Or.inl ⟨buf, hd, hl, rfl⟩)))
    · rename_i hl
      have hl' : 12 ≤ buf.length + 1 := by omega
      split at h
      · rename_i i rest hi
        exact Or.inr (Or.inr (Or.inr (Or.inr (Or.inl ⟨buf, i, rest, hd, hl', hi, h⟩))))
      · cases h
        exact Or.inr (Or.inr (Or.inr (Or.inr (Or.inr ⟨buf, hd, hl', rfl⟩))))
      · cases h
        exact Or.inr (Or.inr (Or.inr (Or.inr (Or.inr ⟨buf, hd, hl', rfl⟩))))

/-- Everything a step on the inputs can do, one case per kind of input (R61, R93). -/
theorem stepInputs_cases (h : stepInputs s = .next t) :
    (s.inputs = [] ∧ s.burst = [] ∧ t = freeTick s) ∨
    (s.burst ≠ [] ∧ (s.inputs = [] ∨ ∃ b rest, s.inputs = .rx b :: rest) ∧ t = foreground 0 s) ∨
    (∃ a rest, s.inputs = .tick a :: rest ∧ t = tick a { s with inputs := rest }) ∨
    (∃ p rest, s.inputs = .tickPayload p :: rest ∧ t = payloadTick p { s with inputs := rest }) ∨
    (∃ b rest, s.inputs = .rx b :: rest ∧ s.burst = [] ∧ dispatcherStep b { s with inputs := rest } = .next t) ∨
    (∃ k rest, s.inputs = .foreground k :: rest ∧ t = foreground k { s with inputs := rest }) ∨
    (∃ cfg g rest, ∃ ok : cfg.valid = true, s.inputs = .rst cfg g :: rest ∧
      t = { State.powerOn ⟨cfg, ok⟩ g with inputs := rest, tx := s.tx, events := s.events, draws := s.draws }) := by
  unfold stepInputs at h
  split at h
  · rename_i hi
    split at h
    · rename_i hb
      cases h
      exact Or.inl ⟨hi, hb, rfl⟩
    · rename_i hb
      cases h
      exact Or.inr (Or.inl ⟨by simp [hb], Or.inl hi, rfl⟩)
  · rename_i a rest hi
    cases h
    exact Or.inr (Or.inr (Or.inl ⟨a, rest, hi, rfl⟩))
  · rename_i p rest hi
    cases h
    exact Or.inr (Or.inr (Or.inr (Or.inl ⟨p, rest, hi, rfl⟩)))
  · rename_i b rest hi
    split at h
    · rename_i hb
      exact Or.inr (Or.inr (Or.inr (Or.inr (Or.inl ⟨b, rest, hi, hb, h⟩))))
    · rename_i hb
      cases h
      exact Or.inr (Or.inl ⟨by simp [hb], Or.inr ⟨b, rest, hi⟩, rfl⟩)
  · rename_i k rest hi
    cases h
    exact Or.inr (Or.inr (Or.inr (Or.inr (Or.inr (Or.inl ⟨k, rest, hi, rfl⟩)))))
  · rename_i cfg g rest hi
    unfold powerOnStep at h
    split at h
    · rename_i ok
      cases h
      exact Or.inr (Or.inr (Or.inr (Or.inr (Or.inr (Or.inr ⟨cfg, g, rest, ok, hi, rfl⟩)))))
    · cases h

/-- In every run the micro-operation port is empty, and a step is a step on the inputs. -/
theorem step_of_no_uop (h : s.uop = none) : step s = stepInputs s := by
  simp [step, stepOnce, h]

/-- A select word on the micro-operation port runs first and leaves the port empty. -/
theorem step_of_uop {m : MicroPort} (h : s.uop = some m) : step s = microStep m { s with uop := none } := by
  simp [step, stepOnce, h]

/-- Everything a step can do. -/
theorem step_cases (h : step s = .next t) :
    (s.uop = none ∧ stepInputs s = .next t) ∨
    (∃ m i, s.uop = some m ∧ decodeMicro m.select m.A m.B = some i ∧ exec i { s with uop := none } = .next t) := by
  cases hu : s.uop with
  | none => exact Or.inl ⟨rfl, step_of_no_uop hu ▸ h⟩
  | some m =>
    rw [step_of_uop hu, microStep] at h
    split at h
    · rename_i i hd
      exact Or.inr ⟨m, i, rfl, hd, h⟩
    · cases h

end Sys2Proof.Machine
end

