-- ==== Sys2Proof/Tests/Slice0.lean ====
section
/-! SUPPORT. Tests: words written out from the spec's encodings, the checks' refusals, one step each on the
vectors of 95_test_vectors.md, and a witness for the hypotheses of every statement that has some. The
vectors' own ids (PV1, T2, H3 ...) stand in the docstrings. -/

namespace Sys2Proof.Tests

set_option Elab.async false

open Sys2Proof.Machine

/-! ## The states the tests start from -/

/-- Configuration A of 95_test_vectors.md. -/
def paramsA (aw : AntiWindup) (snap : Snapshot) : Parameters where
  F := 0x40800000#32
  kp := .same 0x40000000#32
  ki := .same 0x3F000000#32
  kd := .same 0x3E800000#32
  u_min := .same 0xC0C00000#32
  u_max := .same 0x40C00000#32
  min_angle := .same 0xBF800000#32
  max_angle := .same 0x3F800000#32
  home := .same 0#32
  AW := aw
  SNAP := snap
  act := .same ActuatorConstants.atReset

theorem paramsA_valid (aw : AntiWindup) (snap : Snapshot) : (paramsA aw snap).valid = true := by
  cases aw <;> cases snap <;> decide +kernel

def confA : Configuration := ⟨paramsA .none .guarded, paramsA_valid _ _⟩
def confFreeze : Configuration := ⟨paramsA .freeze .guarded, paramsA_valid _ _⟩
def confTorn : Configuration := ⟨paramsA .none .unguarded, paramsA_valid _ _⟩

/-- Configuration A after power-on. -/
def sA : State := State.powerOn confA .closed
/-- The same with the next inputs given. -/
def sIn (l : List Input) : State := { sA with inputs := l }
/-- The same under `SNAP = unguarded`. -/
def sTorn : State := { sA with C := confTorn }
/-- Configuration A with channels of offset 1.5, range 2.0, `cmd_max` 8.0 and window 1.0 to 2.0, all armed. -/
def paramsPulse : Parameters :=
  { paramsA .none .guarded with act := .same ⟨0x3FC00000#32, 0x40000000#32, 0x41000000#32, 0x3F800000#32, 0x40000000#32⟩ }
theorem paramsPulse_valid : paramsPulse.valid = true := by decide +kernel
def sPulse : State := { State.powerOn ⟨paramsPulse, paramsPulse_valid⟩ .closed with ACT := .same ⟨true, 0#32⟩ }
/-- Eleven payload bytes of SETPOINT 0.5, -1.5, 1.0 (H3). -/
def elevenBytes : List Byte :=
  [0x00#8, 0x00#8, 0x00#8, 0x3F#8, 0x00#8, 0x00#8, 0xC0#8, 0xBF#8, 0x00#8, 0x00#8, 0x80#8]

/-- A test on the state a step or an instruction answers. -/
def nextIs (o : Host.Outcome State Fault Refusal) (p : State → Bool) : Bool :=
  match o with
  | .next t => p t
  | .fault _ => false
  | .refused _ => false

/-! ## The checks refuse ill-formed terms -/

/-- R9. -/
theorem test_joint_three_refused : jointInRange 3 = false := by decide
/-- R92: `j = 11`. -/
theorem test_uop_joint_refused : microOpWellFormed 0b0011#4 = false := by decide
/-- R92: `op = 11`. -/
theorem test_uop_op_refused : microOpWellFormed 0b1100#4 = false := by decide
/-- R84: twelve bytes are no SETPOINT; R88: 0x07 is no command. -/
theorem test_host_bytes_refused :
    hostBytesWellFormed (0x04#8 :: elevenBytes) = false ∧ hostBytesWellFormed [0x07#8] = false ∧
      hostBytesWellFormed [] = false := by decide
/-- R8, U3: a rate of zero, a NaN gain. -/
theorem test_config_values_refused :
    ({ paramsA .none .guarded with F := 0#32 } : Parameters).valid = false ∧
    ({ paramsA .none .guarded with kd := .same 0x7FC00000#32 } : Parameters).valid = false := by decide +kernel
/-- R8, U2: bounds and limits out of order. -/
theorem test_config_order_refused :
    ({ paramsA .none .guarded with u_min := .same 0x40C00001#32 } : Parameters).valid = false ∧
    ({ paramsA .none .guarded with max_angle := .same 0xC0000000#32 } : Parameters).valid = false := by
  decide +kernel
/-- R208: a `cmd_max` of zero. -/
theorem test_config_actuator_refused :
    ({ ActuatorConstants.atReset with cmd_max := 0#32 } : ActuatorConstants).valid = false := by decide +kernel

/-! ## Decoding (section 7 of 95_test_vectors.md; R85, R91) -/

theorem test_decode_enable : decodeTableWord 8 0x01 = some .enable := by decide
theorem test_decode_disable : decodeTableWord 8 0x02 = some .disable := by decide
theorem test_decode_getstate : decodeTableWord 8 0x03 = some .getstate := by decide
theorem test_decode_setpoint :
    decode (0x04#8 :: (elevenBytes ++ [0x3F#8])) =
      .instr (.setpoint 0x3F000000#32 0xBFC00000#32 0x3F800000#32) [] := by decide
theorem test_decode_gripopen : decodeTableWord 8 0x05 = some .gripopen := by decide
theorem test_decode_gripclose : decodeTableWord 8 0x06 = some .gripclose := by decide
theorem test_decode_velSample : decodeMicro 0b0010#4 5#32 6#32 = some (.velSample 2 5#32) := by decide
theorem test_decode_pidUpdate : decodeMicro 0b0101#4 5#32 6#32 = some (.pidUpdate 1 5#32 6#32) := by decide
theorem test_decode_pidReset : decodeMicro 0b1010#4 5#32 6#32 = some (.pidReset 2) := by decide
theorem test_decode_unrecognised :
    decode [0x00#8, 0x01#8] = .unrecognised 0x00#8 [0x01#8] ∧ decode [0xFF#8] = .unrecognised 0xFF#8 [] := by
  decide
/-- The bytes of 100.0 on the wire. -/
theorem test_bytes_of_word : bytesOfWord 0x42C80000#32 = [0x00#8, 0x00#8, 0xC8#8, 0x42#8] := by decide

/-! ## Arithmetic (sections 2.2, 3 and 6) -/

/-- D11: T = fdiv(1.0, 100.0). -/
theorem test_fdiv_period : fdiv 0x3F800000#32 0x42C80000#32 = 0x3C23D70A#32 := by decide +kernel
/-- PV8: up, and the sum. -/
theorem test_fmul_fadd_pv8 :
    fmul 0x3F4CCCCD#32 0x3E99999A#32 = 0x3E75C290#32 ∧ fadd 0x3E75C290#32 0x399D4952#32 = 0x3E761135#32 := by
  decide +kernel
/-- V4: the cancelling subtraction. -/
theorem test_fsub_v4 : fsub 0x3E9EB852#32 0x3E99999A#32 = 0x3C23D700#32 := by decide +kernel
/-- PV18: overflow to an infinity. -/
theorem test_fmul_overflow : fmul 0x7F61B1E6#32 0x40000000#32 = 0x7F800000#32 := by decide +kernel
/-- R11, by hand: 1.5 times the smallest subnormal is a tie between 1 and 2 units and goes to the even one. -/
theorem test_tie_to_even : fmul 0x00000001#32 0x3FC00000#32 = 0x00000002#32 := by decide +kernel
/-- R117. -/
theorem test_zero_sum : fadd 0x80000000#32 0x00000000#32 = 0x00000000#32 := by decide +kernel
/-- Section 6: minus infinity clamps, -0.0 with lo = +0.0 passes. -/
theorem test_clamp :
    clamp 0xFF800000#32 0xC0C00000#32 0x40C00000#32 = 0xC0C00000#32 ∧
      clamp 0x80000000#32 0x00000000#32 0x40C00000#32 = 0x80000000#32 := by decide +kernel

/-! ## One step or one instruction each -/

/-- H8. -/
theorem test_enable :
    nextIs (step { sIn [.rx 0x01#8] with P := ⟨⟨0x3F300000#32, 0x40800000#32, false⟩, ⟨1#32, 1#32, false⟩, ⟨1#32, 1#32, true⟩⟩ })
      (fun t => t.MEN && t.P == .same ⟨0#32, 0#32, true⟩ && t.J == sA.J &&
        t.events == [.actEnable 0, .actEnable 1, .actEnable 2]) = true := by decide +kernel
/-- H9. -/
theorem test_disable :
    nextIs (step { sIn [.rx 0x02#8] with MEN := true, J := sA.J.set 0 ⟨0#32, 1#32, 2#32, 0x40C00000#32, 3#32⟩ })
      (fun t => !t.MEN && t.J.j0 == ⟨0#32, 1#32, 2#32, 0#32, 3#32⟩ && t.P == sA.P && t.GRIP == .opened &&
        t.events == [.actDisable 0, .actDisable 1, .actDisable 2, .gripOpen]) = true := by decide +kernel
/-- H1. -/
theorem test_getstate_reset :
    nextIs (step (State.reset.withFetchWord 8 0x03)) (fun t => t.tx == List.replicate 48 0#8) = true := by
  decide +kernel
/-- H11, its first and last floats. -/
theorem test_getstate :
    nextIs (exec .getstate { sA with J := ⟨⟨0x3F000000#32, 0#32, 0#32, 0x3E300000#32, 9#32⟩, sA.J.j1,
        ⟨0#32, 0#32, 0#32, 0xBEE00000#32, 9#32⟩⟩ })
      (fun t => t.tx.take 4 == [0x00#8, 0x00#8, 0x00#8, 0x3F#8] && t.tx.drop 44 == [0x00#8, 0x00#8, 0xE0#8, 0xBE#8])
        = true := by decide +kernel
/-- H3, the twelfth byte. -/
theorem test_setpoint :
    nextIs (step { sIn [.rx 0x3F#8] with DPH := .rxSetpoint elevenBytes })
      (fun t => t.J.j0.setpoint == 0x3F000000#32 && t.J.j1.setpoint == 0xBF800000#32 &&
        t.J.j2.setpoint == 0x3F800000#32 && t.DPH == .waitOpcode) = true := by decide +kernel
/-- H5: infinities clamp to the limit. -/
theorem test_setpoint_infinities :
    nextIs (exec (.setpoint 0x7F800000#32 0xFF800000#32 0xBF800000#32) sA)
      (fun t => t.J.j0.setpoint == 0x3F800000#32 && t.J.j1.setpoint == 0xBF800000#32 &&
        t.J.j2.setpoint == 0xBF800000#32) = true := by decide +kernel
/-- H10. -/
theorem test_gripopen :
    nextIs (step (sIn [.rx 0x05#8])) (fun t => t.GRIP == .opened && t.events == [.gripOpen]) = true := by
  decide +kernel
/-- H10. -/
theorem test_gripclose :
    nextIs (step { sIn [.rx 0x06#8] with GRIP := .opened })
      (fun t => t.GRIP == .closed && t.events == [.gripClose]) = true := by decide +kernel
/-- V1. -/
theorem test_velSample :
    nextIs (exec (.velSample 2 0x3F400000#32) { sA with J := sA.J.set 2 ⟨7#32, 0#32, 0#32, 8#32, 0x3F000000#32⟩ })
      (fun t => t.J.j2 == ⟨7#32, 0x3F400000#32, 0x3F800000#32, 8#32, 0x3F400000#32⟩) = true := by decide +kernel
/-- V6: multiplied by F, not divided by T. -/
theorem test_velSample_rate :
    nextIs (exec (.velSample 0 0x3A83126F#32) { State.reset with J := sA.J.set 0 ⟨0#32, 0#32, 0#32, 0#32, 0xBA83126F#32⟩ })
      (fun t => t.J.j0.velocity == 0x3E4CCCCD#32) = true := by decide +kernel
/-- PV3: saturates high; the accumulator still integrates. -/
theorem test_pidUpdate :
    nextIs (exec (.pidUpdate 0 0x40800000#32 0x3F800000#32) { sA with P := sA.P.set 0 ⟨0x3E400000#32, 0x3F000000#32, false⟩ })
      (fun t => t.Y == 0x40C00000#32 && t.P.j0 == ⟨0x3F300000#32, 0x40800000#32, false⟩) = true := by decide +kernel
/-- PV3 under `AW = freeze`: the accumulator keeps 0.1875. -/
theorem test_pidUpdate_freeze :
    nextIs (exec (.pidUpdate 0 0x40800000#32 0x3F800000#32)
        { sA with C := confFreeze, P := sA.P.set 0 ⟨0x3E400000#32, 0x3F000000#32, false⟩ })
      (fun t => t.Y == 0x40C00000#32 && t.P.j0 == ⟨0x3E400000#32, 0x40800000#32, false⟩) = true := by decide +kernel
/-- PV12, PV20. -/
theorem test_pidReset :
    nextIs (exec (.pidReset 0) { sA with P := ⟨⟨0x3F300000#32, 0x40800000#32, false⟩, ⟨0x3F000000#32, 0x3F800000#32, false⟩, sA.P.j2⟩ })
      (fun t => t.P == ⟨⟨0#32, 0#32, true⟩, ⟨0x3F000000#32, 0x3F800000#32, false⟩, sA.P.j2⟩) = true := by decide +kernel
/-- T1. -/
theorem test_tick_disabled :
    nextIs (step (sIn [.tick ⟨0x3E800000#32, 0#32, 0x3F000000#32⟩]))
      (fun t => t.J.j0 == ⟨0#32, 0x3E800000#32, 0x3F800000#32, 0#32, 0x3E800000#32⟩ &&
        t.J.j2 == ⟨0#32, 0x3F000000#32, 0x40000000#32, 0#32, 0x3F000000#32⟩ &&
        t.events == [.encRead 0, .encRead 1, .encRead 2] && t.P == sA.P) = true := by decide +kernel
/-- T2: setpoints 0.5, -1.0, 1.0. -/
theorem test_tick_enabled :
    nextIs (step { sIn [.tick ⟨0x3E800000#32, 0#32, 0x3F000000#32⟩] with
        MEN := true
        J := ⟨⟨0x3F000000#32, 0#32, 0#32, 0#32, 0#32⟩, ⟨0xBF800000#32, 0#32, 0#32, 0#32, 0#32⟩,
          ⟨0x3F800000#32, 0#32, 0#32, 0#32, 0#32⟩⟩ })
      (fun t => t.events == [.encRead 0, .actSet 0 0x3F080000#32, .encRead 1, .actSet 1 0xC0080000#32, .encRead 2,
          .actSet 2 0x3F880000#32] &&
        t.P.j1 == ⟨0xBE000000#32, 0xBF800000#32, false⟩ && t.J.j2.voltage_cmd == 0x3F880000#32) = true := by
  decide +kernel
/-- H2. -/
theorem test_unrecognised_byte :
    nextIs (step (sIn [.rx 0x80#8])) (fun t => t == sA) = true := by decide +kernel
/-- R92. -/
theorem test_reserved_uop_refused :
    (match step { sA with uop := some ⟨0b0111#4, 0#32, 0#32⟩ } with
      | .refused (.reservedMicroOp w) => w == 0b0111#4
      | _ => false) = true := by decide +kernel
/-- A placed SETPOINT of zeros runs as the next step (log 15). -/
theorem test_withFetchWord_setpoint :
    nextIs (step (State.reset.withFetchWord 8 0x04)) (fun t => t == State.reset) = true := by decide +kernel
/-- A placed select word runs as the next step and leaves the port empty (log 15). -/
theorem test_withFetchWord_pidReset :
    nextIs (step ({ State.reset with P := .same ⟨1#32, 2#32, false⟩ }.withFetchWord 4 0b1001))
      (fun t => t.P == ⟨⟨1#32, 2#32, false⟩, ⟨0#32, 0#32, true⟩, ⟨1#32, 2#32, false⟩⟩ && t.uop == none) = true := by
  decide +kernel
/-- R207, by hand: 1.5 + 1.0 * (2.0 / 8.0) = 1.75 lies in the window, 1.5 - 4.0 * 0.25 = 0.5 below it. -/
theorem test_pulse_width :
    (sPulse.emit (.actSet 1 0x3F800000#32)).ACT.j1 = ⟨true, 0x3FE00000#32⟩ ∧
    (sPulse.emit (.actSet 1 0xC0800000#32)).ACT.j1 = ⟨true, 0x3F800000#32⟩ := by decide +kernel
/-- R201: any word's finite part is finite, and a finite word's is itself. -/
theorem test_finitePart :
    Fp.finitePart 0x7FC00001#32 = 0x3FC00001#32 ∧ Fp.finitePart 0xFF7FFFFF#32 = 0xFF7FFFFF#32 := by decide +kernel
/-- R170, R13 under `unguarded`: after the twelfth byte `DPH` still holds eleven, and its write is the last access. -/
theorem test_unguarded_setpoint_phase :
    nextIs (step { sTorn with inputs := [.rx 0x3F#8], DPH := .rxSetpoint elevenBytes })
      (fun t => t.DPH == .rxSetpoint elevenBytes && t.burst.length == 4 && t.burst.getLast? == some .endPayload)
        = true := by decide +kernel
theorem test_unguarded_setpoint_phase_ends :
    nextIs (step { sTorn with burst := [.endPayload], DPH := .rxSetpoint elevenBytes, inputs := [.rx 0x01#8] })
      (fun t => t.DPH == .waitOpcode && t.burst == [] && t.inputs == [.rx 0x01#8]) = true := by decide +kernel
/-- U5: of a torn store the chosen byte is written and three are left. -/
theorem test_torn_store :
    nextIs (step { sTorn with burst := [storeAll 0 .setpoint 0x00FFFFFF#32], inputs := [.foreground 2] })
      (fun t => t.J.j0.setpoint == 0x00FF0000#32 &&
        t.burst == [.store 0 .setpoint 0x00FFFFFF#32 [0, 1, 3]]) = true := by decide +kernel

/-! ## Witnesses: the hypotheses of each statement are met, at the edges of their clauses -/

theorem witness_DecodingAnEncodedInstructionGivesItBack :
    (Instr.velSample 2 0xFFFFFFFF#32).wellFormed = true ∧ encode .enable = .host [0x01#8] := by decide
theorem witness_OpcodeByteFixesCommandLength :
    (0x03#8 : Byte) ≠ 0x04#8 ∧ (0x05#8 : Byte) ≠ 0x04#8 ∧ elevenBytes.length < 12 ∧
      12 ≤ (elevenBytes ++ [0x3F#8]).length := by decide
/-- The port holding a select word. -/
def sUop (w : BitVec 4) : State := { sA with uop := some ⟨w, 1#32, 2#32⟩ }
theorem witness_ReservedSelectWordsAreRefused :
    (sUop 0b1011#4).uop = some ⟨0b1011#4, 1#32, 2#32⟩ ∧
    (0b1011#4 : BitVec 4) ∈ [0b0011#4, 0b0111#4, 0b1011#4, 0b1100#4, 0b1101#4, 0b1110#4, 0b1111#4] ∧
    (0b1010#4 : BitVec 4) ∉ [0b0011#4, 0b0111#4, 0b1011#4, 0b1100#4, 0b1101#4, 0b1110#4, 0b1111#4] := by
  decide +kernel
/-- A state one byte before a commit of 0.5, -1.5, 1.0. -/
def sCommit : State := { sIn [.rx 0x3F#8] with DPH := .rxSetpoint elevenBytes }
/-- Phase WaitOpcode, the payload phase, and a select word on the port. -/
theorem witness_StepRunsTheDecodedInstruction :
    ((sIn [.rx 0x01#8]).uop = none ∧ (sIn [.rx 0x01#8]).inputs = [.rx 0x01#8] ∧ sA.burst = [] ∧
      sA.DPH = .waitOpcode ∧ decode [0x01#8] = .instr .enable []) ∧
    (sCommit.uop = none ∧ sCommit.inputs = [.rx 0x3F#8] ∧ sCommit.burst = [] ∧ sCommit.DPH = .rxSetpoint elevenBytes ∧
      elevenBytes.length = 11 ∧ decode (0x04#8 :: (elevenBytes ++ [0x3F#8])) =
        .instr (.setpoint 0x3F000000#32 0xBFC00000#32 0x3F800000#32) [] ∧ sCommit.C.SNAP = .guarded ∧
      ({ sCommit with C := confTorn } : State).C.SNAP = .unguarded) ∧
    ((sUop 0b1010#4).uop = some ⟨0b1010#4, 1#32, 2#32⟩ ∧
      decodeMicro 0b1010#4 1#32 2#32 = some (.pidReset 2)) := by decide +kernel
theorem witness_PlacedInstructionRunsNext :
    encode .gripclose = .host [0x06#8] ∧ sA.C.SNAP = .guarded ∧ sTorn.C.SNAP = .unguarded ∧
    encode (.setpoint 0#32 0#32 0x3F800000#32) = .host [0x04#8, 0x00#8, 0x00#8, 0x00#8, 0x00#8, 0x00#8, 0x00#8, 0x00#8,
      0x00#8, 0x00#8, 0x00#8, 0x80#8, 0x3F#8] ∧ encode (.pidReset 2) = .micro 0b1010#4 0#32 0#32 := by decide
theorem witness_UnrecognisedByteChangesNothing :
    sA.uop = none ∧ (sIn [.rx 0x07#8]).inputs = [.rx 0x07#8] ∧ sA.burst = [] ∧ sA.DPH = .waitOpcode ∧ (0x07#8 : Byte) ≤ 0x07#8 := by
  decide +kernel
theorem witness_PayloadBytesAreNeverOpcodes :
    sA.uop = none ∧ ((sIn [.rx 0x04#8]).inputs = [.rx 0x04#8] ∧ sA.burst = [] ∧ sA.DPH = .waitOpcode) ∧
    ([] : List Byte).length < 11 ∧ (elevenBytes.take 10).length < 11 := by decide +kernel
/-- Under `guarded` with nothing after the payload, under `unguarded` with thirteen runs of the foreground. -/
theorem witness_ThirteenBytesRunOneSetpoint :
    sA.uop = none ∧ sA.burst = [] ∧ sA.DPH = .waitOpcode ∧ (elevenBytes ++ [0x3F#8]).length = 12 ∧
    sA.C.SNAP = .guarded ∧ sTorn.C.SNAP = .unguarded ∧
    (sIn ((0x04#8 :: (elevenBytes ++ [0x3F#8])).map Input.rx)).inputs =
      (0x04#8 :: (elevenBytes ++ [0x3F#8])).map Input.rx ++ [] ∧
    confA.toParameters = { sTorn.C.toParameters with SNAP := .guarded } ∧ (List.replicate 13 2).length = 13 ∧
    ∃ g, exec (.setpoint 0x3F000000#32 0xBFC00000#32 0x3F800000#32) { sTorn with C := confA, inputs := [] } = .next g :=
  ⟨rfl, rfl, rfl, rfl, rfl, rfl, rfl, rfl, rfl, exec_answers_next _ _⟩
theorem witness_ConfigurationNeverChanges :
    ¬ NextIsPowerOn (sIn [.rx 0x06#8]) ∧ ∃ t, step (sIn [.rx 0x06#8]) = .next t := by
  refine ⟨?_, exec_answers_next .gripclose sA⟩
  rintro ⟨_, _, _, h⟩
  cases h
/-- After power-on the invariant holds, and an ENABLE is taken from there. -/
theorem witness_EveryStepKeepsTheInvariant :
    NoMicroOperationPending sA ∧ PhaseInRange sA ∧ DisarmedMeansNoPulse sA ∧ sA.burst = [] ∧ ResetMeansZero sA ∧ GateFollowsMen sA ∧
      DisabledMeansZero sA ∧ ∃ t, step (sIn [.rx 0x01#8]) = .next t := by
  refine ⟨rfl, ?_, ?_, rfl, ?_, ?_, ?_, exec_answers_next .enable sA⟩
  · intro _ h
    cases h
  · exact fun j => by fin_cases j <;> exact fun _ => rfl
  · exact fun j => by fin_cases j <;> exact fun _ => ⟨rfl, rfl⟩
  · exact fun j => by fin_cases j <;> rfl
  · exact fun _ j => by fin_cases j <;> rfl
/-- A byte that is neither a TICK nor ENABLE, a TICK, and ENABLE. -/
theorem witness_MicroOperationsRunInTheBlocksSequencingAlone :
    (sIn [.rx 0x06#8]).uop = none ∧ (∃ t, step (sIn [.rx 0x06#8]) = .next t) ∧ ¬ NextIsPowerOn (sIn [.rx 0x06#8]) ∧
      ¬ TakesTick (sIn [.rx 0x06#8]) ∧ (sIn [.rx 0x06#8]).burst = [] ∧ ¬ TakesEnable (sIn [.rx 0x06#8]) ∧
      TakesTick sA ∧ TakesEnable (sIn [.rx 0x01#8]) := by
  refine ⟨rfl, exec_answers_next .gripclose sA, ?_, ?_, rfl, ?_, Or.inl ⟨rfl, rfl⟩, rfl, rfl, _, rfl⟩
  · rintro ⟨_, _, _, h⟩
    cases h
  · rintro (⟨h, _⟩ | ⟨_, _, h⟩ | ⟨_, _, h⟩) <;> cases h
  · rintro ⟨_, _, _, h⟩
    cases h
theorem witness_PowerOnGivesTheResetTable :
    sA.uop = none ∧ (sIn [.rst (paramsA .none .guarded) .closed]).inputs = [.rst confA.toParameters .closed] ∧
    ({ paramsA .none .guarded with F := 0#32 } : Parameters).valid = false := by decide +kernel
theorem witness_ArithmeticIsCorrectlyRounded :
    Fp.isFinite 0x7F7FFFFF#32 = true ∧ Fp.isFinite 0x00000001#32 = true ∧ Fp.isZero 0x00000001#32 = false := by
  decide +kernel
/-- Both sides of the overflow midpoint occur: the greatest finite value, and its double. -/
theorem witness_CorrectlyRounded_overflow :
    BelowOverflow (Fp.value 0x7F7FFFFF#32) 1 ∧
      ¬ BelowOverflow (Fp.value 0x7F7FFFFF#32 + Fp.value 0x7F7FFFFF#32) 1 := by
  unfold BelowOverflow
  decide +kernel
theorem witness_NotANumberAndInfinityRules :
    Fp.isNaN 0x7F800001#32 = true ∧ Fp.isZero 0x80000000#32 = true ∧ Fp.isFinite 0x7F7FFFFF#32 = true ∧
      Fp.isZero 0x7F7FFFFF#32 = false ∧ Fp.isNaN 0x7F800000#32 = false := by decide +kernel
theorem witness_SignedZeroLaws :
    Fp.isNaN 0x7F800000#32 = false ∧ (0x7F800000#32 : Fp) ≠ 0x80000000#32 ∧ Fp.isFinite 0x80000000#32 = true ∧
      Fp.isZero 0x80000000#32 = true := by decide +kernel
/-- An operand just below, at and just above a bound. -/
theorem witness_ClampGivesTheNearestValueInRange :
    Fp.le 0xC0C00000#32 0x40C00000#32 = true ∧ Fp.isNaN 0x40C00001#32 = false ∧
    fgt 0x40C00001#32 0x40C00000#32 = true ∧ flt 0xC0C00001#32 0xC0C00000#32 = true ∧
    flt 0x40C00000#32 0xC0C00000#32 = false ∧ fgt 0x40C00000#32 0x40C00000#32 = false := by decide +kernel
/-- A running controller in configuration A with an error of 1.0. -/
def sPid (c : Configuration) : State := { sA with C := c, P := sA.P.set 0 ⟨0x3E400000#32, 0x3F000000#32, false⟩ }
theorem witness_PidUpdateComputesTheClampedSum :
    (sPid confA).C.AW = .none ∧ Fp.isNaN (pidUnsat (sPid confA) 0 0x3F800000#32 0#32) = false := by decide +kernel
/-- Saturated above, and not saturated. -/
theorem witness_FreezeHoldsTheAccumulatorWhileSaturated :
    (sPid confFreeze).C.AW = .freeze ∧ Fp.isNaN (pidUnsat (sPid confFreeze) 0 0x40800000#32 0#32) = false ∧
    fgt (pidUnsat (sPid confFreeze) 0 0x40800000#32 0#32) 0x40C00000#32 = true ∧
    saturated (pidUnsat (sPid confFreeze) 0 0x3F000000#32 0#32) 0xC0C00000#32 0x40C00000#32 = false := by
  decide +kernel
theorem witness_AntiWindupModesAgreeOnTheOutput :
    sA.C.AW = .none ∧ confFreeze.toParameters = { sA.C.toParameters with AW := .freeze } ∧
      ∃ t, exec (.pidUpdate 0 0x40800000#32 0#32) sA = .next t := ⟨rfl, rfl, _, rfl⟩
/-- A NaN feed-forward makes the sum a NaN. -/
theorem witness_PidUpdateOfANaNGivesAFreeResult : Fp.isNaN (pidUnsat sA 0 0#32 0x7FC00000#32) = true := by
  have h : Fp.isNaN 0x7FC00000#32 = true := by decide +kernel
  simp [pidUnsat, Fp.add, h, Fp.isNaN_nanResult]
theorem witness_PidOutputIsBounded : Fp.isNaN (pidUnsat sA 0 0x7F000000#32 0#32) = false := by decide +kernel
/-- An error of 1.0 after a reset (a sum of 2.125, PV1), and of +0.0 (a sum of zero). -/
theorem witness_FirstUpdateHasNoDerivative :
    (∃ t u, exec (.pidReset 0) (sPid confA) = .next t ∧ exec (.pidUpdate 0 0x3F800000#32 0#32) t = .next u) ∧
    fadd (fmul 0x40000000#32 0x3F800000#32) (fmul (fmul 0x3F000000#32 0x3F800000#32) confA.T) = 0x40080000#32 ∧
    Fp.isZero 0x40080000#32 = false ∧ Fp.le 0xC0C00000#32 0x40080000#32 = true ∧
    Fp.le 0x40080000#32 0x40C00000#32 = true ∧
    Fp.isZero (fadd (fmul 0x40000000#32 0#32) (fmul (fmul 0x3F000000#32 0#32) confA.T)) = true :=
  ⟨⟨_, _, rfl, rfl⟩, by decide +kernel⟩
theorem witness_JointsAreIndependent :
    (0 : Joint) ≠ 1 ∧ ∃ t, exec (.pidUpdate 0 0x3F800000#32 0#32) sA = .next t := ⟨by decide, _, rfl⟩
theorem witness_VelocityIsTheDifferenceOfTwoSamples :
    ∃ t u, exec (.velSample 0 0x3F000000#32) sA = .next t ∧ exec (.velSample 0 0x3F400000#32) t = .next u ∧
      Fp.isFinite 0x3F000000#32 = true := ⟨_, _, rfl, rfl, by decide +kernel⟩
theorem witness_TickStatements :
    sA.uop = none ∧     (sIn [.tick ⟨1#32, 2#32, 3#32⟩]).inputs = [.tick ⟨1#32, 2#32, 3#32⟩] ∧ sA.MEN = false ∧
      ({ sA with MEN := true } : State).MEN = true ∧
      Fp.isNaN (pidUnsat sA 0 (fsub (sA.J.get 0).setpoint 0x3E800000#32) 0#32) = false := by decide +kernel
/-- Motors enabled, two TICKs listed; joint 1 had moved and its command is not zero yet. -/
def sRest : State :=
  { sIn (List.replicate 2 (.tick ⟨0#32, 0#32, 0#32⟩)) with
    MEN := true, J := sA.J.set 1 ⟨0#32, 0x3F000000#32, 0x3F800000#32, 0x40C00000#32, 0#32⟩ }
theorem witness_EquilibriumIsASteadyState :
    sRest.uop = none ∧ sRest.MEN = true ∧
    (∀ j, (sRest.J.get j).setpoint = 0#32 ∧ (sRest.J.get j).previous_angle = 0#32 ∧ (sRest.P.get j).ui = 0#32 ∧
      (sRest.P.get j).error_prev = 0#32 ∧ Fp.le (sRest.C.u_min.get j) 0#32 = true ∧
      Fp.le 0#32 (sRest.C.u_max.get j) = true) ∧
    sRest.inputs = List.replicate (1 + 1) (.tick ⟨0#32, 0#32, 0#32⟩) := by decide +kernel
theorem witness_TicksWithoutListedAnswers :
    sA.uop = none ∧ sA.inputs = [] ∧ sA.burst = [] ∧
      (sIn [.tickPayload ⟨0x3FFF#14, 0#14, 5#14⟩]).inputs = [.tickPayload ⟨0x3FFF#14, 0#14, 5#14⟩] := by
  decide +kernel
/-- For the six statements about commands under `guarded`, and those under `unguarded`. -/
theorem witness_SnapshotPolicies : sA.C.SNAP = .guarded ∧ sTorn.C.SNAP = .unguarded := ⟨rfl, rfl⟩
/-- Values just below the lower limit, at the upper limit and just above it. -/
theorem witness_SetpointStoresClampedValues :
    sA.C.SNAP = .guarded ∧ (∀ j, Fp.isNaN (setpointOperand 0xBF800001#32 0x3F800000#32 0x3F800001#32 j) = false) ∧
    flt 0xBF800001#32 0xBF800000#32 = true ∧ fgt 0x3F800000#32 0x3F800000#32 = false ∧
    fgt 0x3F800001#32 0x3F800000#32 = true := by decide +kernel
theorem witness_RepeatedCommandsChangeNothingMore :
    (∀ j, Fp.isNaN (setpointOperand 0x3F000000#32 0xBFC00000#32 0x3F800000#32 j) = false) ∧
    ∃ t t', exec .enable sA = .next t ∧ exec .enable t = .next t' := by
  obtain ⟨t, h⟩ := exec_answers_next .enable sA
  obtain ⟨t', h'⟩ := exec_answers_next .enable t
  exact ⟨by decide +kernel, t, t', h, h'⟩
theorem witness_SetpointStaysWithinItsLimits :
    sCommit.C.SNAP = .guarded ∧ sCommit.burst = [] ∧ ¬ NextIsPowerOn sCommit ∧ NoNaNCommit sCommit 1 ∧
      SetpointInRange sCommit 1 ∧ ∃ t, step sCommit = .next t := by
  refine ⟨rfl, rfl, ?_, ?_, ⟨by decide +kernel, by decide +kernel⟩,
    exec_answers_next (.setpoint 0x3F000000#32 0xBFC00000#32 0x3F800000#32) sA⟩
  · rintro ⟨_, _, _, h⟩
    cases h
  · intro buf b rest sp0 sp1 sp2 more h1 h2 h3
    cases h1
    cases h2
    rw [test_decode_setpoint] at h3
    cases h3
    decide +kernel
theorem witness_DisabledArmReportsZeroVolts :
    sA.C.SNAP = .guarded ∧ sA.uop = none ∧ sA.burst = [] ∧ sA.DPH = .waitOpcode ∧
    (sIn [.rx 0x02#8, .tick ⟨1#32, 2#32, 3#32⟩, .rx 0x03#8]).inputs =
      .rx 0x02#8 :: ([⟨1#32, 2#32, 3#32⟩].map Input.tick ++ [.rx 0x03#8]) := by decide +kernel
theorem witness_UninterruptedCommandEqualsTheGuardedOne :
    sTorn.C.SNAP = .unguarded ∧ confA.toParameters = { sTorn.C.toParameters with SNAP := .guarded } ∧
    sTorn.uop = none ∧ sTorn.burst = [] ∧ sTorn.inputs = [] ∧
    (∃ t, exec .enable sTorn = .next t ∧ (List.replicate 31 2).length = burstSize t.burst) ∧
    (∃ g, exec .enable { sTorn with C := confA } = .next g) ∧
    (∃ t, exec (.setpoint 0x3F000000#32 0xBFC00000#32 0x3F800000#32) sTorn = .next t ∧
      (List.replicate 12 3).length = burstSize t.burst) ∧
    (∃ t, exec .getstate sTorn = .next t ∧ (List.replicate 48 0).length = burstSize t.burst) :=
  ⟨rfl, rfl, rfl, rfl, rfl, ⟨_, rfl, by decide +kernel⟩, exec_answers_next _ _, ⟨_, rfl, by decide +kernel⟩,
    ⟨_, rfl, by decide +kernel⟩⟩
/-- No access pending; ENABLE's accesses pending; the last byte of a store pending when a byte arrives. -/
theorem witness_ForegroundWaitsOrFinishesFirst :
    (sA.uop = none ∧ (sIn [.foreground 3]).inputs = [.foreground 3] ∧ sA.burst = []) ∧
    ({ sTorn with burst := enableAccesses, inputs := [.foreground 3] } : State).burst =
      .setMen true :: enableAccesses.drop 1 ∧
    (({ sTorn with burst := [.store 0 .setpoint 1#32 [2]], inputs := [.rx 0x03#8] } : State).burst =
      [.store 0 .setpoint 1#32 [2]] ∧ 0 < Access.size (.store 0 .setpoint 1#32 [2])) := by decide +kernel
/-- Disarmed; armed with a finite command whose pulse width lies in the window, and a zero; a NaN command. -/
theorem witness_ActuatorChannelContract :
    (sA.ACT.get 0).armed = false ∧ (sPulse.ACT.get 0).armed = true ∧ Fp.isFinite 0x3F800000#32 = true ∧
      Fp.isNaN (pulseOf (sPulse.C.act.get 0) 0x3F800000#32) = false ∧ Fp.isZero 0x80000000#32 = true ∧
      Fp.isNaN (pulseOf (sPulse.C.act.get 0) 0x7FC00000#32) = true := by
  have h : Fp.isNaN 0x7FC00000#32 = true := by decide +kernel
  refine ⟨rfl, rfl, by decide +kernel, by decide +kernel, by decide +kernel, ?_⟩
  simp [pulseOf, Fp.add, Fp.mul, h, Fp.isNaN_nanResult]
theorem witness_EveryConfigurationIsValid :
    paramsPulse.valid = true ∧ ({ paramsPulse with F := 0x80000000#32 } : Parameters).valid = false := by
  decide +kernel

end Sys2Proof.Tests
end

section
/-! SUPPORT. Words and their bytes as arithmetic (R10, R86): the value of a byte, of an assembled word, and the
round trip between them. -/

namespace Sys2Proof

theorem byteOf_toNat (w : Fp) (i : Fin 4) : (byteOf w i).toNat = w.toNat / 2 ^ (8 * i.val) % 256 := by
  simp [byteOf, BitVec.extractLsb'_toNat, Nat.shiftRight_eq_div_pow]

/-- A byte appended below a vector is its least significant digit in base 256. -/
theorem toNat_append_byte {n : Nat} (x : BitVec n) (b : Byte) : (x ++ b).toNat = x.toNat * 256 + b.toNat := by
  rw [BitVec.toNat_append, ← Nat.shiftLeft_add_eq_or_of_lt b.isLt, Nat.shiftLeft_eq]

/-- The weight of each byte of a word in order of arrival (R10). -/
theorem wordOfBytes_toNat (b0 b1 b2 b3 : Byte) :
    (wordOfBytes b0 b1 b2 b3).toNat =
      b0.toNat + 256 * b1.toNat + 65536 * b2.toNat + 16777216 * b3.toNat := by
  simp only [wordOfBytes, toNat_append_byte]
  omega

/-- Assembling the bytes of a word gives the word (R86). -/
@[simp] theorem wordOfBytes_byteOf (w : Fp) :
    wordOfBytes (byteOf w 0) (byteOf w 1) (byteOf w 2) (byteOf w 3) = w := by
  apply BitVec.eq_of_toNat_eq
  have hw := w.isLt
  simp only [wordOfBytes_toNat, byteOf_toNat]
  norm_num
  omega

/-- The bytes of an assembled word are the bytes it was assembled from (R86). -/
@[simp] theorem byteOf_wordOfBytes (b0 b1 b2 b3 : Byte) (i : Fin 4) :
    byteOf (wordOfBytes b0 b1 b2 b3) i = ![b0, b1, b2, b3] i := by
  apply BitVec.eq_of_toNat_eq
  rw [byteOf_toNat, wordOfBytes_toNat]
  fin_cases i <;> simp <;> omega

@[simp] theorem bytesOfWord_wordOfBytes (b0 b1 b2 b3 : Byte) :
    bytesOfWord (wordOfBytes b0 b1 b2 b3) = [b0, b1, b2, b3] := by
  simp [bytesOfWord]

/-- Settles O3: the two round trips and the weights of the bytes. -/
theorem floatOperandAndItsBytesAgree : Obligations.FloatOperandAndItsBytesAgree :=
  ⟨wordOfBytes_byteOf, fun b0 b1 b2 b3 =>
    ⟨bytesOfWord_wordOfBytes b0 b1 b2 b3, wordOfBytes_toNat b0 b1 b2 b3⟩⟩

end Sys2Proof
end

section
/-! SUPPORT. Classes and signs of binary32 words under sign change, infinities and zeros; what an operation
answers where an operand is no finite value or the divisor a zero (R87, R117, R123); and clamp over values
(R12). -/

namespace Sys2Proof

/-! Sign change -/

@[simp] theorem Fp.sign_neg (x : Fp) : Fp.sign (Fp.neg x) = !Fp.sign x := by
  simp [Fp.sign, Fp.neg]

@[simp] theorem Fp.expo_neg (x : Fp) : Fp.expo (Fp.neg x) = Fp.expo x := by
  simp [Fp.expo, Fp.neg, BitVec.extractLsb_xor]

@[simp] theorem Fp.frac_neg (x : Fp) : Fp.frac (Fp.neg x) = Fp.frac x := by
  simp [Fp.frac, Fp.neg, BitVec.extractLsb_xor]

@[simp] theorem Fp.isNaN_neg (x : Fp) : Fp.isNaN (Fp.neg x) = Fp.isNaN x := by simp [Fp.isNaN]
@[simp] theorem Fp.isInf_neg (x : Fp) : Fp.isInf (Fp.neg x) = Fp.isInf x := by simp [Fp.isInf]
@[simp] theorem Fp.isFinite_neg (x : Fp) : Fp.isFinite (Fp.neg x) = Fp.isFinite x := by simp [Fp.isFinite]
@[simp] theorem Fp.units_neg (x : Fp) : Fp.units (Fp.neg x) = Fp.units x := by simp [Fp.units]

@[simp] theorem Fp.value_neg (x : Fp) : Fp.value (Fp.neg x) = -Fp.value x := by
  cases h : Fp.sign x <;> simp [Fp.value, h]

/-! Infinities and zeros -/

@[simp] theorem Fp.sign_inf (s : Bool) : Fp.sign (Fp.inf s) = s := Fp.sign_ofSignMag (by decide)
@[simp] theorem Fp.expo_inf (s : Bool) : Fp.expo (Fp.inf s) = 255 := Fp.expo_ofSignMag (by decide)
@[simp] theorem Fp.frac_inf (s : Bool) : Fp.frac (Fp.inf s) = 0 := Fp.frac_ofSignMag (by decide)
@[simp] theorem Fp.isNaN_inf (s : Bool) : Fp.isNaN (Fp.inf s) = false := by simp [Fp.isNaN]
@[simp] theorem Fp.isInf_inf (s : Bool) : Fp.isInf (Fp.inf s) = true := by simp [Fp.isInf]
@[simp] theorem Fp.isZero_inf (s : Bool) : Fp.isZero (Fp.inf s) = false := by simp [Fp.isZero]

@[simp] theorem Fp.neg_inf (s : Bool) : Fp.neg (Fp.inf s) = Fp.inf (!s) :=
  Fp.ext_fields (by simp) (by simp) (by simp)

/-- A word in the class of infinities is the infinity of its sign. -/
theorem Fp.eq_inf_of_isInf {x : Fp} (h : Fp.isInf x = true) : x = Fp.inf (Fp.sign x) := by
  obtain ⟨he, hf⟩ := (Fp.isInf_iff x).1 h
  exact Fp.ext_fields (by simp) (by simp [he]) (by simp [hf])

theorem Fp.isNaN_eq_false_of_isZero {x : Fp} (h : Fp.isZero x = true) : Fp.isNaN x = false := by
  simp [Fp.isNaN, ((Fp.isZero_iff x).1 h).1]

theorem Fp.isInf_eq_false_of_isZero {x : Fp} (h : Fp.isZero x = true) : Fp.isInf x = false := by
  simp [Fp.isInf, ((Fp.isZero_iff x).1 h).1]

/-! A NaN operand (R124) -/

section
variable {a b : Fp} (h : Fp.isNaN a = true ∨ Fp.isNaN b = true)
include h

theorem Fp.isNaN_add_of_isNaN : Fp.isNaN (Fp.add a b) = true := by
  rcases h with h | h <;> simp [Fp.add, h, Fp.isNaN_nanResult]

theorem Fp.isNaN_sub_of_isNaN : Fp.isNaN (Fp.sub a b) = true :=
  Fp.isNaN_add_of_isNaN (by simpa using h)

theorem Fp.isNaN_mul_of_isNaN : Fp.isNaN (Fp.mul a b) = true := by
  rcases h with h | h <;> simp [Fp.mul, h, Fp.isNaN_nanResult]

theorem Fp.isNaN_div_of_isNaN : Fp.isNaN (Fp.div a b) = true := by
  rcases h with h | h <;> simp [Fp.div, h, Fp.isNaN_nanResult]

end

/-! Sums and differences with an infinity -/

/-- An infinity stays in the sum with every value but a NaN and the opposite infinity. -/
theorem Fp.add_inf_left {sg : Bool} {a : Fp} (hn : Fp.isNaN a = false) (hi : Fp.isInf a = true → Fp.sign a = sg) :
    Fp.add (Fp.inf sg) a = Fp.inf sg := by
  cases h : Fp.isInf a with
  | false => simp [Fp.add, hn, h]
  | true => simp [Fp.add, hn, h, hi h]

theorem Fp.add_inf_right {sg : Bool} {a : Fp} (ha : Fp.isFinite a = true) : Fp.add a (Fp.inf sg) = Fp.inf sg := by
  simp [Fp.add, Fp.isNaN_eq_false_of_isFinite ha, Fp.isInf_eq_false_of_isFinite ha]

theorem Fp.isNaN_add_opposite_inf (sg : Bool) : Fp.isNaN (Fp.add (Fp.inf sg) (Fp.inf (!sg))) = true := by
  simp [Fp.add, Fp.isNaN_nanResult]

/-! Products with an infinity -/

/-- The product of an infinity and a value that is neither a NaN nor a zero, on either side. -/
theorem Fp.mul_of_isInf {a b : Fp} (ha : Fp.isNaN a = false) (hb : Fp.isNaN b = false) (za : Fp.isZero a = false)
    (zb : Fp.isZero b = false) (hi : Fp.isInf a = true ∨ Fp.isInf b = true) :
    Fp.mul a b = Fp.inf (Fp.sign a != Fp.sign b) := by
  rcases hi with hi | hi <;> simp [Fp.mul, ha, hb, za, zb, hi]

theorem Fp.isNaN_mul_inf_zero (sg : Bool) {z : Fp} (hz : Fp.isZero z = true) :
    Fp.isNaN (Fp.mul (Fp.inf sg) z) = true ∧ Fp.isNaN (Fp.mul z (Fp.inf sg)) = true := by
  simp [Fp.mul, hz, Fp.isNaN_eq_false_of_isZero hz, Fp.isNaN_nanResult]

/-! Quotients with an infinity or by a zero -/

theorem Fp.div_inf_left {sg : Bool} {a : Fp} (ha : Fp.isFinite a = true) :
    Fp.div (Fp.inf sg) a = Fp.inf (sg != Fp.sign a) := by
  simp [Fp.div, Fp.isNaN_eq_false_of_isFinite ha, Fp.isInf_eq_false_of_isFinite ha]

theorem Fp.div_inf_right {sg : Bool} {a : Fp} (ha : Fp.isFinite a = true) :
    Fp.div a (Fp.inf sg) = Fp.signedZero (Fp.sign a != sg) := by
  simp [Fp.div, Fp.isNaN_eq_false_of_isFinite ha, Fp.isInf_eq_false_of_isFinite ha]

theorem Fp.isNaN_div_inf_inf (sg sh : Bool) : Fp.isNaN (Fp.div (Fp.inf sg) (Fp.inf sh)) = true := by
  simp [Fp.div, Fp.isNaN_nanResult]

/-- The quotient by a zero: a NaN where the dividend is a zero too, else an infinity. -/
theorem Fp.div_zero {a z : Fp} (hz : Fp.isZero z = true) (ha : Fp.isNaN a = false) :
    Fp.div a z = if Fp.isZero a then Fp.nanResult .div a z else Fp.inf (Fp.sign a != Fp.sign z) := by
  have hnz := Fp.isNaN_eq_false_of_isZero hz
  have hiz := Fp.isInf_eq_false_of_isZero hz
  cases hi : Fp.isInf a with
  | false => simp [Fp.div, ha, hi, hnz, hiz, hz]
  | true =>
    have hza : Fp.isZero a = false := by rw [Fp.eq_inf_of_isInf hi, Fp.isZero_inf]
    simp [Fp.div, ha, hi, hnz, hiz, hza]

/-- Settles O17: one lemma per class of operands, the difference being the sum with the sign changed. -/
theorem notANumberAndInfinityRules : Obligations.NotANumberAndInfinityRules := by
  refine ⟨fun a b h => ?_, fun sg => ?_, fun sg z hz => ?_, fun z w hz hw => ?_, fun sg a ha => ?_, fun sg => ?_,
    fun sg sh => ?_, fun a z hz hn ha => ?_⟩
  · exact ⟨Fp.isNaN_add_of_isNaN h, Fp.isNaN_sub_of_isNaN h, Fp.isNaN_mul_of_isNaN h, Fp.isNaN_div_of_isNaN h,
      Fp.lt_eq_false_of_isNaN h, Fp.lt_eq_false_of_isNaN h.symm⟩
  · exact ⟨Fp.isNaN_add_opposite_inf sg, by simp [Fp.sub, Fp.isNaN_add_opposite_inf]⟩
  · exact Fp.isNaN_mul_inf_zero sg hz
  · rw [fdiv_eq, Fp.div_zero hw (Fp.isNaN_eq_false_of_isZero hz), if_pos hz]
    exact Fp.isNaN_nanResult _ _ _
  · have hn := Fp.isNaN_eq_false_of_isFinite ha
    have hi := Fp.isInf_eq_false_of_isFinite ha
    refine ⟨Fp.add_inf_left hn (by simp [hi]), Fp.add_inf_right ha, ?_, ?_, Fp.div_inf_right ha, Fp.div_inf_left ha,
      fun hz => ⟨?_, ?_⟩⟩
    · exact Fp.add_inf_left (by simpa using hn) (by simp [hi])
    · rw [fsub_eq, Fp.sub, Fp.neg_inf, Fp.add_inf_right ha]
    · simpa using Fp.mul_of_isInf hn (Fp.isNaN_inf sg) hz (Fp.isZero_inf sg) (.inr (Fp.isInf_inf sg))
    · simpa using Fp.mul_of_isInf (Fp.isNaN_inf sg) hn (Fp.isZero_inf sg) hz (.inl (Fp.isInf_inf sg))
  · have h : Fp.add (Fp.inf sg) (Fp.inf sg) = Fp.inf sg := Fp.add_inf_left (by simp) (by simp)
    exact ⟨h, by simpa [Fp.sub] using h⟩
  · have h := Fp.mul_of_isInf (Fp.isNaN_inf sg) (Fp.isNaN_inf sh) (Fp.isZero_inf sg) (Fp.isZero_inf sh)
      (.inl (Fp.isInf_inf sg))
    exact ⟨by simpa using h, Fp.isNaN_div_inf_inf sg sh⟩
  · rw [fdiv_eq, Fp.div_zero hz hn, if_neg (by simp [ha])]

/-! Clamp (R12) -/

theorem Fp.le_refl {x : Fp} (h : Fp.isNaN x = false) : Fp.le x x = true := by simp [Fp.le_iff, h]

/-- For values that are no NaN, not below is at or above. -/
theorem Fp.lt_eq_false_iff {a b : Fp} (ha : Fp.isNaN a = false) (hb : Fp.isNaN b = false) :
    Fp.lt a b = false ↔ Fp.le b a = true := by
  simp [Fp.lt, Fp.le, ha, hb]

/-- Inside the bounds `clamp` gives its operand. -/
theorem clamp_of_le {x lo hi : Fp} (hlo : Fp.le lo x = true) (hhi : Fp.le x hi = true) : clamp x lo hi = x := by
  obtain ⟨nlo, nx, _⟩ := (Fp.le_iff lo x).1 hlo
  obtain ⟨_, nhi, _⟩ := (Fp.le_iff x hi).1 hhi
  simp [clamp, (Fp.lt_eq_false_iff nx nlo).2 hlo, (Fp.lt_eq_false_iff nhi nx).2 hhi]

/-- `clamp` never leaves bounds that are in order. -/
theorem clamp_mem_bounds {x lo hi : Fp} (h : Fp.le lo hi = true) (hx : Fp.isNaN x = false) :
    Fp.le lo (clamp x lo hi) = true ∧ Fp.le (clamp x lo hi) hi = true := by
  obtain ⟨nlo, nhi, _⟩ := (Fp.le_iff lo hi).1 h
  rcases clamp_cases x lo hi with ⟨_, e⟩ | ⟨_, _, e⟩ | ⟨hlo, hhi, e⟩ <;> rw [e]
  · exact ⟨Fp.le_refl nlo, h⟩
  · exact ⟨h, Fp.le_refl nhi⟩
  · exact ⟨(Fp.lt_eq_false_iff hx nlo).1 hlo, (Fp.lt_eq_false_iff nhi hx).1 hhi⟩

/-- No value within the bounds is nearer to the operand than its clamp. -/
theorem clamp_nearest {x lo hi y : Fp} (hlo : Fp.le lo y = true) (hhi : Fp.le y hi = true) :
    (Fp.value (clamp x lo hi) - Fp.value x).natAbs ≤ (Fp.value y - Fp.value x).natAbs := by
  obtain ⟨_, _, vlo⟩ := (Fp.le_iff lo y).1 hlo
  obtain ⟨_, _, vhi⟩ := (Fp.le_iff y hi).1 hhi
  rcases clamp_cases x lo hi with ⟨hl, e⟩ | ⟨_, hh, e⟩ | ⟨_, _, e⟩ <;> rw [e]
  · obtain ⟨_, _, _⟩ := (Fp.lt_iff x lo).1 hl
    omega
  · obtain ⟨_, _, _⟩ := (Fp.lt_iff hi x).1 hh
    omega
  · simp

/-- Settles O19: the three branches, then the bounds; idempotence is the inner branch at a clamped operand. -/
theorem clampGivesTheNearestValueInRange : Obligations.ClampGivesTheNearestValueInRange := by
  intro x lo hi h hx
  obtain ⟨nlo, nhi, _⟩ := (Fp.le_iff lo hi).1 h
  obtain ⟨hlo, hhi⟩ := clamp_mem_bounds h hx
  refine ⟨fun hl => if_pos hl, fun hg => ?_,
    fun hl hg => clamp_of_le ((Fp.lt_eq_false_iff hx nlo).1 hl) ((Fp.lt_eq_false_iff nhi hx).1 hg), hlo, hhi,
    clamp_of_le hlo hhi, fun y => clamp_nearest⟩
  have above : Fp.value hi < Fp.value x := ((Fp.lt_iff hi x).1 hg).2.2
  have notBelow : Fp.lt x lo = false := (Fp.lt_eq_false_iff hx nlo).2 ((Fp.le_iff lo x).2 ⟨nlo, hx, by omega⟩)
  exact (if_neg (by simp [notBelow])).trans (if_pos hg)

end Sys2Proof
end

section
/-! SUPPORT. The rounding of an exact fraction to a binary32 word (R11, R123): what rounding to a whole number
gives, the magnitude of the rounded word, and that no finite word is nearer. With these the four operations are
correctly rounded. Magnitudes are in units of 2^-149. -/

namespace Sys2Proof

open Sys2Proof.Machine

/-! Rounding to a whole number -/

/-- `m` is num / den rounded to the nearest natural number, ties to even. -/
def NearestEven (num den m : Nat) : Prop :=
  2 * (m * den) ≤ 2 * num + den ∧ 2 * num ≤ 2 * (m * den) + den ∧
    (2 * (m * den) = 2 * num + den ∨ 2 * num = 2 * (m * den) + den → m % 2 = 0)

theorem Fp.roundTiesToEven_nearestEven (num : Nat) {den : Nat} (h : 0 < den) :
    NearestEven num den (Fp.roundTiesToEven num den) := by
  have hr := Nat.mod_lt num h
  have hq : num = num / den * den + num % den := by rw [Nat.mul_comm, Nat.div_add_mod]
  unfold Fp.roundTiesToEven NearestEven
  simp only
  generalize num / den = q at *
  generalize num % den = r at *
  split
  · rename_i hup
    simp at hup
    rw [Nat.add_mul]
    omega
  · rename_i hdown
    simp at hdown
    omega

theorem NearestEven.le_of_lt_mul {num den m n : Nat} (h : NearestEven num den m) (hn : num < n * den) : m ≤ n := by
  obtain ⟨hm, _, _⟩ := h
  by_contra hlt
  have : (n + 1) * den ≤ m * den := Nat.mul_le_mul_right _ (by omega)
  rw [Nat.add_mul] at this
  omega

theorem NearestEven.le_of_mul_le {num den m n : Nat} (h : NearestEven num den m) (hn : n * den ≤ num) (hd : 0 < den) :
    n ≤ m := by
  obtain ⟨_, hm, _⟩ := h
  by_contra hlt
  have : (m + 1) * den ≤ n * den := Nat.mul_le_mul_right _ (by omega)
  rw [Nat.add_mul] at this
  omega

/-- The distance between the whole number `x` and num / den, in units of 1 / den. -/
def distance (num den x : Nat) : Nat := ((x : Int) * den - num).natAbs

/-- No whole number is nearer than the rounded one, which is even if another is as near. -/
theorem NearestEven.nearest {num den m : Nat} (h : NearestEven num den m) (n : Nat) :
    distance num den m ≤ distance num den n ∧
      (distance num den m = distance num den n → n ≠ m → m % 2 = 0) := by
  obtain ⟨hlo, hhi, heven⟩ := h
  unfold distance
  rw [← Nat.cast_mul, ← Nat.cast_mul]
  rcases Nat.lt_trichotomy n m with hnm | rfl | hnm
  · have := Nat.mul_le_mul_right den hnm
    rw [Nat.succ_mul] at this
    omega
  · simp
  · have := Nat.mul_le_mul_right den hnm
    rw [Nat.succ_mul] at this
    omega

/-- Scaling the unit: `n` units of `den * 2^k` are `n * 2^k` units of `den`. -/
theorem distance_scale (num den k n : Nat) : distance num (den * 2 ^ k) n = distance num den (n * 2 ^ k) := by
  unfold distance
  push_cast
  ring_nf

/-! The shift and the significand of a rounded word -/

/-- `k` is the shift that leaves at most 24 significant bits of num / den, and exactly 24 if it shifts at all;
`m` is the rounded significand. -/
structure Scaled (num den k m : Nat) : Prop where
  lt : num < 2 ^ 24 * (den * 2 ^ k)
  le : 0 < k → 2 ^ 23 * (den * 2 ^ k) ≤ num
  nearest : NearestEven num (den * 2 ^ k) m

/-- The word `roundUnits` builds comes from a shift and a significand rounded once. -/
theorem Fp.roundUnits_scaled (neg : Bool) (num : Nat) {den : Nat} (h : 0 < den) :
    ∃ k m, Scaled num den k m ∧
      Fp.roundUnits neg num den = Fp.ofSignMag neg (min (k * 2 ^ 23 + m) 0x7F800000) := by
  refine ⟨Nat.log2 (num / den) - 23, _, ⟨?_, fun hk => ?_, Fp.roundTiesToEven_nearestEven num (by positivity)⟩, rfl⟩
  · calc num < den * (num / den + 1) := Nat.lt_mul_div_succ num h
      _ ≤ den * 2 ^ (Nat.log2 (num / den) + 1) := Nat.mul_le_mul_left _ Nat.lt_log2_self
      _ ≤ den * 2 ^ (24 + (Nat.log2 (num / den) - 23)) :=
        Nat.mul_le_mul_left _ (Nat.pow_le_pow_right (by decide) (by omega))
      _ = 2 ^ 24 * (den * 2 ^ (Nat.log2 (num / den) - 23)) := by ring
  · have hq : num / den ≠ 0 := by
      intro h0
      simp [h0] at hk
    calc 2 ^ 23 * (den * 2 ^ (Nat.log2 (num / den) - 23))
        = den * 2 ^ (23 + (Nat.log2 (num / den) - 23)) := by ring
      _ = den * 2 ^ Nat.log2 (num / den) := by rw [Nat.add_sub_cancel' (by omega)]
      _ ≤ den * (num / den) := Nat.mul_le_mul_left _ (Nat.log2_self_le hq)
      _ ≤ num := Nat.mul_div_le num den

theorem Scaled.significand_le {num den k m : Nat} (h : Scaled num den k m) : m ≤ 2 ^ 24 :=
  h.nearest.le_of_lt_mul h.lt

theorem Scaled.le_significand {num den k m : Nat} (h : Scaled num den k m) (hd : 0 < den) (hk : 0 < k) : 2 ^ 23 ≤ m :=
  h.nearest.le_of_mul_le (h.le hk) (by positivity)

/-- A fraction rounds to at most the odd number `n` exactly below the midpoint `n + 1/2`, which rounds up. -/
theorem NearestEven.le_odd_iff {num den m n : Nat} (h : NearestEven num den m) (hd : 0 < den) (hn : n % 2 = 1) :
    m ≤ n ↔ 2 * num < (2 * n + 1) * den := by
  obtain ⟨hlo, hhi, heven⟩ := h
  rw [Nat.add_mul, Nat.mul_assoc]
  rcases Nat.lt_trichotomy m n with hlt | rfl | hgt
  · have := Nat.mul_le_mul_right den hlt
    rw [Nat.succ_mul] at this
    omega
  · omega
  · have := Nat.mul_le_mul_right den hgt
    rw [Nat.succ_mul] at this
    omega

/-- The rounded word stays below the infinities exactly when the exact value is below the overflow midpoint. -/
theorem Scaled.below_iff {num den k m : Nat} (h : Scaled num den k m) (hd : 0 < den) :
    k * 2 ^ 23 + m < 0x7F800000 ↔ 2 * num < (2 * maxFiniteUnits + 2 ^ 253) * den := by
  have hmid : (2 * maxFiniteUnits + 2 ^ 253) * den = (2 * (2 ^ 24 - 1) + 1) * (den * 2 ^ 253) := by
    unfold maxFiniteUnits
    ring
  have hm := h.significand_le
  have hlt := h.lt
  rw [hmid]
  rcases Nat.lt_trichotomy k 253 with hk | rfl | hk
  · have hpow : den * 2 ^ k * 2 ≤ den * 2 ^ 253 := by
      rw [Nat.mul_assoc, ← Nat.pow_succ]
      exact Nat.mul_le_mul_left _ (Nat.pow_le_pow_right (by decide) hk)
    omega
  · rw [← h.nearest.le_odd_iff (by positivity) (by decide)]
    omega
  · have hge := h.le_significand hd (by omega)
    have hle := h.le (by omega)
    have hpow : den * 2 ^ 253 * 2 ≤ den * 2 ^ k := by
      rw [Nat.mul_assoc, ← Nat.pow_succ]
      exact Nat.mul_le_mul_left _ (Nat.pow_le_pow_right (by decide) hk)
    omega

/-! The magnitudes of finite words -/

/-- The word whose low 31 bits are `k * 2^23 + m` has the magnitude `m * 2^k`: for `k = 0` the low bits are `m`
itself, and a carry out of a 24-bit `m` moves into the exponent. -/
theorem Fp.units_ofSignMag {s : Bool} {k m : Nat} (hm : m ≤ 2 ^ 24) (hk : 0 < k → 2 ^ 23 ≤ m)
    (hw : k * 2 ^ 23 + m < 0x7F800000) : Fp.units (Fp.ofSignMag s (k * 2 ^ 23 + m)) = m * 2 ^ k := by
  unfold Fp.units
  rw [Fp.expo_ofSignMag (by omega), Fp.frac_ofSignMag (by omega)]
  rcases Nat.lt_or_ge m (2 ^ 23) with hlt | hge
  · obtain rfl : k = 0 := by omega
    rw [if_pos (by omega)]
    omega
  · rw [if_neg (by omega)]
    rcases Nat.lt_or_eq_of_le hm with hlt | rfl
    · have he : (k * 2 ^ 23 + m) / 2 ^ 23 - 1 = k := by omega
      have hf : 2 ^ 23 + (k * 2 ^ 23 + m) % 2 ^ 23 = m := by omega
      rw [he, hf]
    · have he : (k * 2 ^ 23 + 2 ^ 24) / 2 ^ 23 - 1 = k + 1 := by omega
      have hf : (k * 2 ^ 23 + 2 ^ 24) % 2 ^ 23 = 0 := by omega
      rw [he, hf]
      ring

/-- A magnitude is a multiple of 2^k, or less than every 24-bit significand shifted by `k`. -/
theorem Fp.units_multiple_or_lt (y : Fp) (k : Nat) :
    (∃ n, Fp.units y = n * 2 ^ k) ∨ (0 < k ∧ Fp.units y < 2 ^ 23 * 2 ^ k) := by
  have hf := Fp.frac_lt y
  unfold Fp.units
  split
  · rcases Nat.eq_zero_or_pos k with rfl | hk
    · exact .inl ⟨Fp.frac y, by simp⟩
    · exact .inr ⟨hk, hf.trans_le (Nat.le_mul_of_pos_right _ (by positivity))⟩
  · generalize Fp.expo y - 1 = e
    rcases Nat.lt_or_ge e k with he | he
    · refine .inr ⟨by omega, ?_⟩
      calc (2 ^ 23 + Fp.frac y) * 2 ^ e < 2 ^ 24 * 2 ^ e := Nat.mul_lt_mul_of_pos_right (by omega) (by positivity)
        _ = 2 ^ 23 * 2 ^ (e + 1) := by ring
        _ ≤ 2 ^ 23 * 2 ^ k := Nat.mul_le_mul_left _ (Nat.pow_le_pow_right (by decide) he)
    · refine .inl ⟨(2 ^ 23 + Fp.frac y) * 2 ^ (e - k), ?_⟩
      rw [Nat.mul_assoc, ← Nat.pow_add, Nat.sub_add_cancel he]

/-- No magnitude is nearer than `m * 2^k`, and `m` is even if another is as near: a magnitude that is no multiple
of 2^k is below the exact value, and below the least 24-bit significand, which is nearer. -/
theorem Scaled.nearest_units {num den k m : Nat} (h : Scaled num den k m) (hd : 0 < den) (y : Fp) :
    distance num den (m * 2 ^ k) ≤ distance num den (Fp.units y) ∧
      (distance num den (m * 2 ^ k) = distance num den (Fp.units y) → Fp.units y ≠ m * 2 ^ k → m % 2 = 0) := by
  rcases Fp.units_multiple_or_lt y k with ⟨n, hn⟩ | ⟨hk, hlt⟩
  · rw [hn, ← distance_scale, ← distance_scale]
    obtain ⟨hle, heven⟩ := h.nearest.nearest n
    exact ⟨hle, fun he hne => heven he fun e => hne (by rw [e])⟩
  · have hle := (h.nearest.nearest (2 ^ 23)).1
    rw [distance_scale, distance_scale] at hle
    have hstrict : distance num den (2 ^ 23 * 2 ^ k) < distance num den (Fp.units y) := by
      have hnum : 2 ^ 23 * 2 ^ k * den ≤ num := by
        calc 2 ^ 23 * 2 ^ k * den = 2 ^ 23 * (den * 2 ^ k) := by ring
          _ ≤ num := h.le hk
      have hy : Fp.units y * den < 2 ^ 23 * 2 ^ k * den := Nat.mul_lt_mul_of_pos_right hlt hd
      unfold distance
      rw [← Nat.cast_mul, ← Nat.cast_mul]
      omega
    omega

/-! Signed values -/

/-- The whole number of sign `s` and magnitude `n`. -/
def signed (s : Bool) (n : Nat) : Int := if s then -(n : Int) else n

theorem Fp.value_eq_signed (x : Fp) : Fp.value x = signed (Fp.sign x) (Fp.units x) := rfl

@[simp] theorem natAbs_signed (s : Bool) (n : Nat) : (signed s n).natAbs = n := by
  cases s <;> simp [signed]

theorem signed_mul (s t : Bool) (m n : Nat) : signed s m * signed t n = signed (s != t) (m * n) := by
  cases s <;> cases t <;> simp [signed]

theorem signed_neg_iff {n : Nat} (h : 0 < n) (s : Bool) : decide (signed s n < 0) = s := by
  cases s <;> simp [signed, h]

/-- A number is its magnitude with its sign. -/
theorem eq_signed (v : Int) : v = signed (decide (v < 0)) v.natAbs := by
  by_cases h : v < 0
  · simp only [signed, h, decide_true, if_true]
    omega
  · simp only [signed, h, decide_false, Bool.false_eq_true, if_false]
    omega

theorem signed_distance_same (s : Bool) (num den x : Nat) :
    (signed s x * den - signed s num).natAbs = distance num den x := by
  cases s <;> simp [signed, distance]
  omega

theorem signed_distance_opposite (s : Bool) (num den x : Nat) :
    (signed (!s) x * den - signed s num).natAbs = x * den + num := by
  cases s <;> simp [signed] <;> rw [← Nat.cast_mul] <;> omega

/-- No finite value is nearer than the one of sign `neg` and magnitude `m * 2^k`, and `m` is even if another is as
near: a value of the same sign is compared by magnitude, and one of the opposite sign is no nearer than zero. -/
theorem Scaled.nearest_value {num den k m : Nat} (h : Scaled num den k m) (hd : 0 < den) (neg : Bool) (y : Fp) :
    distance num den (m * 2 ^ k) ≤ (Fp.value y * den - signed neg num).natAbs ∧
      (distance num den (m * 2 ^ k) = (Fp.value y * den - signed neg num).natAbs →
        Fp.value y ≠ signed neg (m * 2 ^ k) → m % 2 = 0) := by
  rw [Fp.value_eq_signed y]
  rcases Bool.eq_or_eq_not (Fp.sign y) neg with hy | hy
  · rw [hy, signed_distance_same]
    obtain ⟨hle, heven⟩ := h.nearest_units hd y
    exact ⟨hle, fun he hne => heven he fun e => hne (by rw [e])⟩
  · obtain ⟨hle, heven⟩ := h.nearest.nearest 0
    rw [distance_scale, distance_scale, Nat.zero_mul] at hle heven
    have hdist : distance num den 0 = num := by simp [distance]
    rw [hy, signed_distance_opposite]
    refine ⟨by omega, fun he hne => ?_⟩
    have hy0 : Fp.units y = 0 := by
      have hmul : Fp.units y * den = 0 := by omega
      exact (Nat.mul_eq_zero.1 hmul).resolve_right hd.ne'
    have hm0 : 0 ≠ m := by
      rintro rfl
      simp [hy0, signed] at hne
    exact heven (by simpa [hy0, hdist] using he) hm0

/-! The four operations -/

/-- The word `roundUnits` builds is the exact signed fraction correctly rounded. -/
theorem Fp.roundUnits_correct (neg : Bool) (num : Nat) {den : Nat} (hd : 0 < den) :
    CorrectlyRounded (signed neg num) den (Fp.roundUnits neg num den) := by
  obtain ⟨k, m, hs, hw⟩ := Fp.roundUnits_scaled neg num hd
  have hbelow : BelowOverflow (signed neg num) den ↔ k * 2 ^ 23 + m < 0x7F800000 := by
    rw [BelowOverflow, natAbs_signed, hs.below_iff hd]
  rw [hw, CorrectlyRounded, hbelow]
  refine ⟨fun hlt => ?_, fun hge => ?_⟩
  · rw [Nat.min_eq_left hlt.le]
    have hunits := Fp.units_ofSignMag (s := neg) hs.significand_le (hs.le_significand hd) hlt
    have hsign : Fp.sign (Fp.ofSignMag neg (k * 2 ^ 23 + m)) = neg := Fp.sign_ofSignMag (by omega)
    have hexpo := Fp.expo_ofSignMag (s := neg) (m := k * 2 ^ 23 + m) (by omega)
    have hfrac := Fp.frac_ofSignMag (s := neg) (m := k * 2 ^ 23 + m) (by omega)
    generalize Fp.ofSignMag neg (k * 2 ^ 23 + m) = r at *
    refine ⟨(Fp.isFinite_iff r).2 (by omega), fun y _ => ?_⟩
    rw [Fp.value_eq_signed r, hsign, hunits, signed_distance_same, hfrac]
    obtain ⟨hle, heven⟩ := hs.nearest_value hd neg y
    refine ⟨hle, fun he hne => ?_⟩
    have := heven he hne
    omega
  · have hpos : 0 < num := by
      by_contra h0
      obtain rfl : num = 0 := by omega
      have : BelowOverflow (signed neg 0) den := by
        rw [BelowOverflow, natAbs_signed]
        positivity
      exact hge (hbelow.1 this)
    rw [Nat.min_eq_right (by omega), signed_neg_iff hpos]
    rfl

theorem Fp.roundUnits_zero (s : Bool) : Fp.roundUnits s 0 1 = Fp.signedZero s := by
  cases s <;> rfl

section
variable {a b : Fp} (ha : Fp.isFinite a = true) (hb : Fp.isFinite b = true)
include ha hb

/-- On finite operands a sum is the zero R117 names or the exact sum rounded. -/
theorem Fp.add_of_isFinite : Fp.add a b =
    if Fp.value a + Fp.value b = 0 then Fp.signedZero (Fp.sign a && Fp.sign b)
    else Fp.roundUnits (decide (Fp.value a + Fp.value b < 0)) (Fp.value a + Fp.value b).natAbs 1 := by
  simp [Fp.add, Fp.isNaN_eq_false_of_isFinite, Fp.isInf_eq_false_of_isFinite, ha, hb]

theorem Fp.mul_of_isFinite : Fp.mul a b =
    Fp.roundUnits (Fp.sign a != Fp.sign b) (Fp.units a * Fp.units b) (2 ^ 149) := by
  simp [Fp.mul, Fp.isNaN_eq_false_of_isFinite, Fp.isInf_eq_false_of_isFinite, ha, hb]

theorem Fp.div_of_isFinite (hz : Fp.isZero b = false) : Fp.div a b =
    Fp.roundUnits (Fp.sign a != Fp.sign b) (Fp.units a * 2 ^ 149) (Fp.units b) := by
  simp [Fp.div, Fp.isNaN_eq_false_of_isFinite, Fp.isInf_eq_false_of_isFinite, ha, hb, hz]

theorem Fp.add_correct : CorrectlyRounded (Fp.value a + Fp.value b) 1 (Fp.add a b) := by
  rw [Fp.add_of_isFinite ha hb]
  generalize Fp.value a + Fp.value b = v
  split
  · rename_i hv
    rw [hv, ← Fp.roundUnits_zero]
    simpa [signed] using Fp.roundUnits_correct (Fp.sign a && Fp.sign b) 0 Nat.one_pos
  · have h := Fp.roundUnits_correct (decide (v < 0)) v.natAbs Nat.one_pos
    rwa [← eq_signed] at h

theorem Fp.sub_correct : CorrectlyRounded (Fp.value a - Fp.value b) 1 (Fp.sub a b) := by
  have h := Fp.add_correct ha (b := Fp.neg b) (by simpa using hb)
  rwa [Fp.value_neg, ← sub_eq_add_neg] at h

theorem Fp.mul_correct : CorrectlyRounded (Fp.value a * Fp.value b) (2 ^ 149) (Fp.mul a b) := by
  rw [Fp.mul_of_isFinite ha hb, Fp.value_eq_signed a, Fp.value_eq_signed b, signed_mul]
  exact Fp.roundUnits_correct _ _ (by positivity)

end

theorem Fp.units_eq_zero_iff (x : Fp) : Fp.units x = 0 ↔ Fp.isZero x = true := by
  rw [Fp.isZero_iff]
  unfold Fp.units
  split
  · rename_i h
    simp [h]
  · rename_i h
    simp [h]

theorem sign_signed {n : Nat} (h : 0 < n) (s : Bool) : (signed s n).sign = signed s 1 := by
  cases s <;> simp [signed] <;> omega

theorem Fp.div_correct {a b : Fp} (ha : Fp.isFinite a = true) (hb : Fp.isFinite b = true) (hz : Fp.isZero b = false) :
    CorrectlyRounded (Fp.value a * 2 ^ 149 * (Fp.value b).sign) (Fp.value b).natAbs (Fp.div a b) := by
  have hpos : 0 < Fp.units b := by
    rw [Nat.pos_iff_ne_zero, Ne, Fp.units_eq_zero_iff]
    simp [hz]
  have hnum : Fp.value a * 2 ^ 149 * (Fp.value b).sign =
      signed (Fp.sign a != Fp.sign b) (Fp.units a * 2 ^ 149) := by
    rw [Fp.value_eq_signed b, sign_signed hpos, mul_right_comm, Fp.value_eq_signed a, signed_mul, Nat.mul_one]
    have : (2 ^ 149 : Int) = signed false (2 ^ 149) := by simp [signed]
    rw [this, signed_mul, Bool.bne_false]
  rw [Fp.div_of_isFinite ha hb hz, hnum, Fp.value_eq_signed b, natAbs_signed]
  exact Fp.roundUnits_correct _ _ hpos

/-- Settles O16: every operation rounds an exact signed fraction once. -/
theorem arithmeticIsCorrectlyRounded : Obligations.ArithmeticIsCorrectlyRounded :=
  fun _ _ ha hb => ⟨Fp.add_correct ha hb, Fp.sub_correct ha hb, Fp.mul_correct ha hb, Fp.div_correct ha hb⟩

end Sys2Proof
end

section
/-! SUPPORT. One equation per kind of step, what an instruction leaves at the block's ports, and from these the
statements about every step (R7, R8, R34, R42, R92, R170, R220). -/

namespace Sys2Proof.Machine

variable {s t : State}

/-! What an instruction leaves: the configuration, the phase, the inputs and the micro-operation port -/

/-- `t` has the configuration, the dispatcher phase, the inputs and the micro-operation port of `s`. -/
structure KeepsPorts (s t : State) : Prop where
  C : t.C = s.C
  DPH : t.DPH = s.DPH
  inputs : t.inputs = s.inputs
  uop : t.uop = s.uop

/-- A command that keeps the ports at one instant keeps them too when it starts its accesses. -/
theorem runCommand_keepsPorts {f : State → State} {l : List Access} (hf : KeepsPorts s (f s))
    (h : runCommand f l s = .next t) : KeepsPorts s t := by
  rcases runCommand_cases s f l with ⟨_, e⟩ | ⟨_, e⟩ <;> rw [e] at h <;> cases h
  · exact hf
  · exact ⟨rfl, rfl, rfl, rfl⟩

/-- The clamping of a SETPOINT writes the counter of drawn values and nothing else. -/
theorem clampSetpoints_frame (a b c : Fp) (s : State) :
    (clampSetpoints a b c s).2 = { s with draws := (clampSetpoints a b c s).2.draws } := by
  simp only [clampSetpoints, clampSetpoint]
  rw [clampFree_frame, clampFree_frame _ b, clampFree_frame _ a]

/-- Storing the setpoints writes the field `setpoint` of the three joints and nothing else. -/
theorem storeSetpoints_eq (v : PerJoint Fp) (s : State) :
    storeSetpoints v s = { s with J :=
      ⟨{ s.J.j0 with setpoint := v.j0 }, { s.J.j1 with setpoint := v.j1 }, { s.J.j2 with setpoint := v.j2 }⟩ } := rfl

theorem exec_keepsPorts {i : Instr} (h : exec i s = .next t) : KeepsPorts s t := by
  cases i with
  | enable => exact runCommand_keepsPorts (by constructor <;> simp [enableAtOnce, joints]) h
  | disable => exact runCommand_keepsPorts (by constructor <;> simp [disableAtOnce, joints]) h
  | getstate => exact runCommand_keepsPorts (by constructor <;> simp [getstateAtOnce]) h
  | setpoint a b c =>
    have hk := runCommand_keepsPorts (s := (clampSetpoints a b c s).2)
      (by rw [storeSetpoints_eq]; exact ⟨rfl, rfl, rfl, rfl⟩) h
    rw [clampSetpoints_frame] at hk
    exact ⟨hk.C, hk.DPH, hk.inputs, hk.uop⟩
  | gripopen => exact runCommand_keepsPorts (by constructor <;> simp [gripAtOnce]) h
  | gripclose => exact runCommand_keepsPorts (by constructor <;> simp [gripAtOnce]) h
  | velSample j a => cases h; exact ⟨rfl, rfl, rfl, rfl⟩
  | pidUpdate j e ff => cases h; constructor <;> simp
  | pidReset j => cases h; exact ⟨rfl, rfl, rfl, rfl⟩

/-! One equation per kind of step -/

/-- A byte is received by the dispatcher where no access is pending (R61, R170). -/
theorem step_rx {b : Byte} {rest : List Input} (hu : s.uop = none) (hi : s.inputs = .rx b :: rest)
    (hb : s.burst = []) : step s = dispatcherStep b { s with inputs := rest } := by
  simp only [step_of_no_uop hu, stepInputs, hi, hb]

theorem step_foreground {k : Nat} {rest : List Input} (hu : s.uop = none) (hi : s.inputs = .foreground k :: rest) :
    step s = .next (foreground k { s with inputs := rest }) := by
  simp only [step_of_no_uop hu, stepInputs, hi]

theorem step_rst {cfg : Parameters} {g : Grip} {rest : List Input} (hu : s.uop = none)
    (hi : s.inputs = .rst cfg g :: rest) : step s = powerOnStep cfg g { s with inputs := rest } := by
  simp only [step_of_no_uop hu, stepInputs, hi]

theorem powerOnStep_valid (c : Configuration) (g : Grip) (s : State) :
    powerOnStep c.toParameters g s = .next { State.powerOn c g with
      inputs := s.inputs, tx := s.tx, events := s.events, draws := s.draws } := by
  simp [powerOnStep, c.ok]

theorem powerOnStep_invalid {cfg : Parameters} (h : cfg.valid = false) (g : Grip) (s : State) :
    powerOnStep cfg g s = .refused .invalidConfiguration := by
  simp [powerOnStep, h]

theorem microStep_decoded {m : MicroPort} {i : Instr} (h : decodeMicro m.select m.A m.B = some i) (s : State) :
    microStep m s = exec i s := by
  simp [microStep, h]

theorem microStep_reserved {m : MicroPort} (h : decodeMicro m.select m.A m.B = none) (s : State) :
    microStep m s = .refused (.reservedMicroOp m.select) := by
  simp [microStep, h]

/-- A one-byte command in phase WaitOpcode (R170). -/
theorem dispatcherStep_opcode {b : Byte} {i : Instr} {more : List Byte} (hd : s.DPH = .waitOpcode)
    (h : decode [b] = .instr i more) : dispatcherStep b s = exec i s := by
  simp only [dispatcherStep, hd, h]

/-- 0x04 in phase WaitOpcode opens the payload phase (R170, R174). -/
theorem dispatcherStep_open (hd : s.DPH = .waitOpcode) :
    dispatcherStep 0x04#8 s = .next { s with DPH := .rxSetpoint [] } := by
  simp only [dispatcherStep, hd]
  rfl

/-- A payload byte before the twelfth is appended to the buffer (R170). -/
theorem dispatcherStep_payload {b : Byte} {buf : List Byte} (hd : s.DPH = .rxSetpoint buf) (hl : buf.length < 11) :
    dispatcherStep b s = .next { s with DPH := .rxSetpoint (buf ++ [b]) } := by
  simp only [dispatcherStep, hd]
  rw [if_pos (by omega)]

/-- The twelfth payload byte commits the command (R170, R175). -/
theorem dispatcherStep_commit {b : Byte} {buf more : List Byte} {i : Instr} (hd : s.DPH = .rxSetpoint buf)
    (hl : buf.length = 11) (h : decode (0x04#8 :: (buf ++ [b])) = .instr i more) :
    dispatcherStep b s = commitPayload i s := by
  simp only [dispatcherStep, hd, h]
  rw [if_neg (by omega)]

/-- The commit of a payload is the command, then `DPH <- WaitOpcode`, at once or as one more access (R170, R13). -/
theorem commitPayload_eq (i : Instr) (s : State) : ∃ t, exec i s = .next t ∧
    (s.C.SNAP = .guarded → commitPayload i s = .next { t with DPH := .waitOpcode }) ∧
    (s.C.SNAP = .unguarded → commitPayload i s = .next { t with burst := t.burst ++ [.endPayload] }) := by
  obtain ⟨t, ht, hcases⟩ := commitPayload_cases i s
  have hC : t.C = s.C := (exec_keepsPorts ht).C
  refine ⟨t, ht, fun hg => ?_, fun hg => ?_⟩ <;> rcases hcases with ⟨hS, e⟩ | ⟨hS, e⟩
  · exact e
  · simp [hC, hg] at hS
  · simp [hC, hg] at hS
  · exact e

/-- Settles O6: the equation of each of the three kinds of step. -/
theorem stepRunsTheDecodedInstruction : Obligations.StepRunsTheDecodedInstruction := by
  refine ⟨fun s b rest i more hu hi hb hd h => ?_, fun s b rest buf i more hu hi hb hd hl h => ?_,
    fun s w A B i hu h => ?_⟩
  · exact (step_rx hu hi hb).trans (dispatcherStep_opcode hd h)
  · rw [step_rx hu hi hb, dispatcherStep_commit (s := { s with inputs := rest }) hd hl h]
    exact commitPayload_eq i _
  · rw [step_of_uop hu, microStep_decoded h]

/-! Statements about every step -/

/-- The dispatcher answers a next state on every byte in every phase (R220). -/
theorem dispatcherStep_answers_next (b : Byte) (s : State) : ∃ t, dispatcherStep b s = .next t := by
  unfold dispatcherStep
  split
  · split
    · exact exec_answers_next _ s
    · exact ⟨_, rfl⟩
    · exact ⟨_, rfl⟩
  · split
    · exact ⟨_, rfl⟩
    · split
      · rename_i i _ _
        obtain ⟨_, _, ⟨_, h⟩ | ⟨_, h⟩⟩ := commitPayload_cases i s <;> exact ⟨_, h⟩
      · exact ⟨_, rfl⟩
      · exact ⟨_, rfl⟩

/-- A step on the inputs answers a next state, or refuses a power-on with a configuration that is not valid. -/
theorem stepInputs_answers (s : State) : (∃ t, stepInputs s = .next t) ∨
    (∃ cfg grip rest, s.inputs = .rst cfg grip :: rest ∧ cfg.valid = false ∧
      stepInputs s = .refused .invalidConfiguration) := by
  unfold stepInputs
  split
  · split <;> exact .inl ⟨_, rfl⟩
  · exact .inl ⟨_, rfl⟩
  · exact .inl ⟨_, rfl⟩
  · split
    · exact .inl (dispatcherStep_answers_next _ _)
    · exact .inl ⟨_, rfl⟩
  · exact .inl ⟨_, rfl⟩
  · rename_i cfg grip rest hi
    cases hv : cfg.valid with
    | true => exact .inl ⟨_, powerOnStep_valid ⟨cfg, hv⟩ grip _⟩
    | false => exact .inr ⟨cfg, grip, rest, hi, hv, powerOnStep_invalid hv grip _⟩

/-- Settles O11: by what stands on the micro-operation port, then by the next input. -/
theorem stepAnswersNextButForTwoRefusals : Obligations.StepAnswersNextButForTwoRefusals := by
  intro s
  cases hu : s.uop with
  | none =>
    rw [step_of_no_uop hu]
    rcases stepInputs_answers s with h | ⟨cfg, grip, rest, hi, hv, h⟩
    · exact .inl h
    · exact .inr (.inr ⟨cfg, grip, rest, rfl, hi, hv, h⟩)
  | some m =>
    rw [step_of_uop hu]
    cases hd : decodeMicro m.select m.A m.B with
    | some i => exact .inl (microStep_decoded hd _ ▸ exec_answers_next i _)
    | none => exact .inr (.inl ⟨m.select, m.A, m.B, rfl, hd, microStep_reserved hd _⟩)

@[simp] theorem foreground_C (pick : Nat) (s : State) : (foreground pick s).C = s.C := by
  rcases foreground_cases s pick with ⟨_, h⟩ | ⟨a, rest, _, h⟩ <;> rw [h]
  rw [perform_frame]

theorem dispatcherStep_C {b : Byte} (h : dispatcherStep b s = .next t) : t.C = s.C := by
  rcases dispatcherStep_cases h with ⟨_, i, _, _, e⟩ | ⟨_, _, rfl⟩ | ⟨_, _, rfl⟩ | ⟨_, _, _, rfl⟩ |
    ⟨_, i, _, _, _, _, e⟩ | ⟨_, _, _, rfl⟩
  case inl => exact (exec_keepsPorts e).C
  case inr.inr.inr.inr.inl =>
    obtain ⟨u, hu, ⟨_, e'⟩ | ⟨_, e'⟩⟩ := commitPayload_cases i s <;> rw [e'] at e <;> cases e <;>
      exact (exec_keepsPorts hu).C
  all_goals rfl

/-- Settles O12: by the kinds of step, of which only power-on writes the configuration. -/
theorem configurationNeverChanges : Obligations.ConfigurationNeverChanges := by
  intro s t hp h
  rcases step_cases h with ⟨_, h⟩ | ⟨_, i, _, _, h⟩
  · rcases stepInputs_cases h with ⟨_, _, rfl⟩ | ⟨_, _, rfl⟩ | ⟨_, _, _, rfl⟩ | ⟨_, _, _, rfl⟩ | ⟨_, _, _, _, h⟩ |
      ⟨_, _, _, rfl⟩ | ⟨cfg, g, rest, _, hi, _⟩
    · simp [freeTick]
    · simp
    · simp
    · simp [payloadTick]
    · exact (dispatcherStep_C h :)
    · simp
    · exact absurd ⟨cfg, g, rest, hi⟩ hp
  · exact (exec_keepsPorts h).C

/-! Power-on and configurations -/

/-- Settles O15: the table is read off `State.powerOn`, and the step is power-on's equation. -/
theorem powerOnGivesTheResetTable : Obligations.PowerOnGivesTheResetTable := by
  refine ⟨fun c grip j => ?_, ⟨_, _, reset_eq⟩, fun s c grip rest hi hu => ?_, fun s cfg grip rest hi hv hu => ?_⟩
  · exact ⟨PerJoint.get_same _ j, PerJoint.get_same _ j, rfl, rfl, rfl, rfl,
      congrArg ActuatorState.armed (PerJoint.get_same _ j)⟩
  · rw [step_rst hu hi, powerOnStep_valid]
  · rw [step_rst hu hi, powerOnStep_invalid hv]

/-- What R8 asks of the parameters of one joint, clause by clause. -/
theorem jointValid_iff (p : Parameters) (j : Joint) : p.jointValid j = true ↔
    Fp.isFinite (p.kp.get j) = true ∧ Fp.isFinite (p.ki.get j) = true ∧ Fp.isFinite (p.kd.get j) = true ∧
    Fp.isFinite (p.u_min.get j) = true ∧ Fp.isFinite (p.u_max.get j) = true ∧
    Fp.isFinite (p.min_angle.get j) = true ∧ Fp.isFinite (p.max_angle.get j) = true ∧
    Fp.isFinite (p.home.get j) = true ∧
    Fp.le (p.u_min.get j) (p.u_max.get j) = true ∧ Fp.le (p.min_angle.get j) (p.max_angle.get j) = true := by
  simp only [Parameters.jointValid, Bool.and_eq_true]
  tauto

theorem forall_joint {P : Joint → Prop} : (∀ j, P j) ↔ P 0 ∧ P 1 ∧ P 2 := by
  simp [Fin.forall_fin_succ]

/-- A configuration is valid when its rate and period are, and each joint's parameters and constants. -/
theorem parameters_valid_iff (p : Parameters) : p.valid = true ↔
    Fp.isFinite p.F = true ∧ flt Fp.zero p.F = true ∧ Fp.isFinite p.T = true ∧ flt Fp.zero p.T = true ∧
    ∀ j, p.jointValid j = true ∧ (p.act.get j).valid = true := by
  rw [forall_joint]
  simp only [Parameters.valid, Bool.and_eq_true, PerJoint.get]
  tauto

/-- Settles O49: `valid` clause by clause; a state's configuration carries its proof. -/
theorem everyConfigurationIsValid : Obligations.EveryConfigurationIsValid := by
  refine ⟨fun _ => rfl, fun p => ?_, fun s => s.C.ok⟩
  simp only [parameters_valid_iff, jointValid_iff, and_assoc]
  rfl

end Sys2Proof.Machine
end

section
/-! SUPPORT. Runs of the machine over several inputs: the payload bytes of a SETPOINT (R170), and the runs of the
foreground context that complete the accesses of an unguarded command (R58, log 13). Whichever bytes the runs pick,
an access that nothing interrupts has one whole effect, `Access.complete`. -/

namespace Sys2Proof.Machine

variable {s t : State}

/-! Stepping a run -/

/-- A run of any machine goes on from the state its first step answers. -/
theorem coreRun_succ {M : Host.Core} {s t : M.State} (h : M.step s = .next t) (k : Nat) :
    M.run (k + 1) s = M.run k t := by
  simp only [Host.Core.run, h]

theorem run_succ (h : step s = .next t) (k : Nat) : core.run (k + 1) s = core.run k t := coreRun_succ h k

/-! The whole effect of an access -/

/-- A word after the bytes `left` of `w` have been stored into it. -/
def storedBytes (w : Fp) (left : List (Fin 4)) (old : Fp) : Fp := left.foldl (fun v i => putByte v i w) old

/-- The bytes of one word may be stored in any order. -/
theorem putByte_comm (v w : Fp) (i k : Fin 4) : putByte (putByte v i w) k w = putByte (putByte v k w) i w := by
  fin_cases i <;> fin_cases k <;> simp [putByte]

theorem storedBytes_perm (w old : Fp) {l l' : List (Fin 4)} (h : l.Perm l') :
    storedBytes w l old = storedBytes w l' old :=
  h.foldl_eq' (fun i _ k _ v => putByte_comm v w i k) old

theorem storedBytes_allBytes (w old : Fp) : storedBytes w allBytes old = w := by
  simp [storedBytes, allBytes, putByte]

/-- What an access amounts to when nothing interrupts it: all that is left of it at one instant. -/
def Access.complete (a : Access) (s : State) : State :=
  match a with
  | .store j f w left => s.writeField j f (storedBytes w left (s.readField j f))
  | _ => (a.perform 0 s).1

/-- The whole effect of a list of accesses, in order. -/
def completeAll (l : List Access) (s : State) : State := l.foldl (fun t a => a.complete t) s

theorem writeField_readField (s : State) (j : Joint) (f : FpField) : s.writeField j f (s.readField j f) = s := by
  have hJ : s.setJ j (s.J.get j) = s := by simp [State.setJ]
  have hP : s.setP j (s.P.get j) = s := by simp [State.setP]
  cases f with
  | ui => exact hP
  | error_prev => exact hP
  | _ => exact hJ

theorem writeField_writeField (s : State) (j : Joint) (f : FpField) (v w : Fp) :
    (s.writeField j f v).writeField j f w = s.writeField j f w := by
  cases f <;> simp [State.writeField, State.setJ, State.setP]

theorem chosenByte_mem (b : Fin 4) (bs : List (Fin 4)) (pick : Nat) : chosenByte (b :: bs) pick ∈ b :: bs := by
  have hlt : pick % (b :: bs).length < (b :: bs).length := Nat.mod_lt _ (by simp)
  rw [chosenByte, List.getD_eq_getElem _ _ hlt]
  exact List.getElem_mem hlt

/-- Making an access and completing what it leaves is completing it, whichever byte was picked. -/
theorem completeAll_perform (pick : Nat) (a : Access) (s : State) :
    completeAll (a.perform pick s).2 (a.perform pick s).1 = a.complete s := by
  cases a with
  | store j f w left =>
    cases left with
    | nil => exact (writeField_readField s j f).symm
    | cons b bs =>
      have hp : storedBytes w (b :: bs) (s.readField j f) =
          storedBytes w ((b :: bs).erase (chosenByte (b :: bs) pick))
            (putByte (s.readField j f) (chosenByte (b :: bs) pick) w) :=
        storedBytes_perm w _ (List.perm_cons_erase (chosenByte_mem b bs pick))
      simp only [Access.perform, Access.complete, hp, State.storeByte]
      split
      · rename_i h
        rw [List.isEmpty_iff.1 h]
        rfl
      · simp [completeAll, Access.complete, readField_writeField, writeField_writeField]
  | _ => rfl

@[simp] theorem complete_storeAll (j : Joint) (f : FpField) (w : Fp) (s : State) :
    (storeAll j f w).complete s = s.writeField j f w := by
  simp [storeAll, Access.complete, storedBytes_allBytes]

/-! Accesses neither read nor write the list of pending accesses and the inputs -/

/-- `s` with other pending accesses and other inputs. -/
def State.withQueues (s : State) (l : List Access) (ins : List Input) : State := { s with burst := l, inputs := ins }

section
variable (s) (l : List Access) (ins : List Input)

@[simp] theorem withQueues_burst : (s.withQueues l ins).burst = l := rfl
@[simp] theorem withQueues_uop : (s.withQueues l ins).uop = s.uop := rfl
@[simp] theorem withQueues_withQueues (l' : List Access) (ins' : List Input) :
    (s.withQueues l ins).withQueues l' ins' = s.withQueues l' ins' := rfl

theorem setCmd_withQueues (j : Joint) (cmd : Fp) :
    (s.withQueues l ins).setCmd j cmd = (s.setCmd j cmd).withQueues l ins := by
  cases ha : (s.ACT.get j).armed with
  | false => simp [State.setCmd, State.withQueues, ha]
  | true =>
    cases hn : Fp.isNaN (pulseOf (s.C.act.get j) cmd) <;>
      simp [State.setCmd, State.clampFree, State.withQueues, State.setAct, State.drawn, ha, hn]

theorem emit_withQueues (e : Event) : (s.withQueues l ins).emit e = (s.emit e).withQueues l ins := by
  cases e with
  | actSet j v => exact setCmd_withQueues { s with events := s.events ++ [.actSet j v] } l ins j v
  | actEnable j =>
    exact setCmd_withQueues
      (({ s with events := s.events ++ [.actEnable j] } : State).setAct j { s.ACT.get j with armed := true })
      l ins j Fp.zero
  | _ => rfl

theorem writeField_withQueues (j : Joint) (f : FpField) (v : Fp) :
    (s.withQueues l ins).writeField j f v = (s.writeField j f v).withQueues l ins := by
  cases f <;> rfl

theorem readField_withQueues (j : Joint) (f : FpField) : (s.withQueues l ins).readField j f = s.readField j f := by
  cases f <;> rfl

theorem perform_withQueues (pick : Nat) (a : Access) :
    a.perform pick (s.withQueues l ins) = ((a.perform pick s).1.withQueues l ins, (a.perform pick s).2) := by
  cases a with
  | store j f w left =>
    cases left with
    | nil => rfl
    | cons b bs => simp only [Access.perform, State.storeByte, readField_withQueues, writeField_withQueues]
  | emit e => simp only [Access.perform, emit_withQueues]
  | send j f i => simp only [Access.perform, readField_withQueues]; rfl
  | _ => rfl

theorem complete_withQueues (a : Access) : a.complete (s.withQueues l ins) = (a.complete s).withQueues l ins := by
  cases a with
  | store j f w left => simp only [Access.complete, readField_withQueues, writeField_withQueues]
  | _ => exact congrArg Prod.fst (perform_withQueues s l ins 0 _)

theorem completeAll_withQueues (as : List Access) (s : State) :
    completeAll as (s.withQueues l ins) = (completeAll as s).withQueues l ins := by
  induction as generalizing s with
  | nil => rfl
  | cons a as ih => exact (congrArg (completeAll as) (complete_withQueues s l ins a)).trans (ih _)

end

/-! The foreground context completes the pending accesses (R58) -/

/-- A run of the foreground context makes the first pending access. -/
theorem foreground_cons {a : Access} {as : List Access} (hb : s.burst = a :: as) (pick : Nat) (ins : List Input) :
    foreground pick { s with inputs := ins } =
      (a.perform pick s).1.withQueues ((a.perform pick s).2 ++ as) ins := by
  have hp := perform_withQueues s s.burst ins pick a
  rcases foreground_cases (s.withQueues s.burst ins) pick with ⟨h, _⟩ | ⟨a', as', h, e⟩ <;>
    rw [show (s.withQueues s.burst ins).burst = a :: as from hb] at h <;> cases h
  rw [hp] at e
  exact e

theorem completeAll_append (l l' : List Access) (s : State) :
    completeAll (l ++ l') s = completeAll l' (completeAll l s) := by
  simp [completeAll]

theorem burstSize_append (l l' : List Access) : burstSize (l ++ l') = burstSize l + burstSize l' := by
  simp [burstSize]

theorem burstSize_eq_zero {l : List Access} (hpos : ∀ a ∈ l, 0 < a.size) (h : burstSize l = 0) : l = [] := by
  cases l with
  | nil => rfl
  | cons a l =>
    have := hpos a (by simp)
    simp only [burstSize, List.map_cons, List.sum_cons] at h
    omega

/-- What is left of an access still takes at least one run. -/
theorem perform_left_pos (pick : Nat) (a : Access) (s : State) : ∀ x ∈ (a.perform pick s).2, 0 < x.size := by
  cases a with
  | store j f w left =>
    cases left with
    | nil => simp [Access.perform]
    | cons b bs =>
      simp only [Access.perform]
      split
      · simp
      · rename_i h
        intro x hx
        obtain rfl := List.mem_singleton.1 hx
        exact List.length_pos_iff.2 (by simpa using h)
  | _ => simp [Access.perform]

/-- As many uninterrupted runs of the foreground context as the pending accesses take complete them, in order,
whatever bytes they pick. -/
theorem run_foreground {picks : List Nat} {rest : List Input} (hu : s.uop = none)
    (hi : s.inputs = picks.map Input.foreground ++ rest) (hpos : ∀ a ∈ s.burst, 0 < a.size)
    (hl : picks.length = burstSize s.burst) :
    core.run picks.length s = .next ((completeAll s.burst s).withQueues [] rest) := by
  induction picks generalizing s with
  | nil =>
    have hb := burstSize_eq_zero hpos hl.symm
    have hi' : s.inputs = rest := hi
    simp only [hb, completeAll, List.foldl_nil, State.withQueues, ← hi']
    rw [← hb]
    rfl
  | cons p picks ih =>
    rcases foreground_cases s p with ⟨hb, _⟩ | ⟨a, as, hb, _⟩
    · simp [hb, burstSize] at hl
    · have ha : 0 < a.size := hpos a (by simp [hb])
      have hsize := perform_size s p a
      have hstep : step s = .next ((a.perform p s).1.withQueues ((a.perform p s).2 ++ as)
          (picks.map Input.foreground ++ rest)) := by
        rw [step_foreground hu hi]
        exact congrArg Host.Outcome.next (foreground_cons hb p _)
      have hend : completeAll ((a.perform p s).2 ++ as) (a.perform p s).1 = completeAll s.burst s := by
        rw [completeAll_append, completeAll_perform, hb]
        rfl
      refine (run_succ hstep _).trans ((ih ?_ rfl ?_ ?_).trans (congrArg Host.Outcome.next ?_))
      · rw [withQueues_uop, perform_frame]
        exact hu
      · intro x hx
        rcases List.mem_append.1 hx with hx | hx
        · exact perform_left_pos p a s x hx
        · exact hpos x (by simp [hb, hx])
      · have hb' : burstSize s.burst = a.size + burstSize as := by simp [hb, burstSize]
        rw [List.length_cons] at hl
        rw [withQueues_burst, burstSize_append]
        omega
      · rw [completeAll_withQueues, withQueues_withQueues, withQueues_burst, hend]

/-! A SETPOINT's outcome under both snapshot policies (R175, R176) -/

/-- The clamped setpoints and the values drawn for them depend on the limits and on the counter alone. -/
theorem clampSetpoints_congr (a b c : Fp) (hmin : t.C.min_angle = s.C.min_angle) (hmax : t.C.max_angle = s.C.max_angle)
    (hd : t.draws = s.draws) :
    (clampSetpoints a b c t).1 = (clampSetpoints a b c s).1 ∧
      (clampSetpoints a b c t).2.draws = (clampSetpoints a b c s).2.draws := by
  cases ha : Fp.isNaN a <;> cases hb : Fp.isNaN b <;> cases hc : Fp.isNaN c <;>
    simp [clampSetpoints, clampSetpoint, State.clampFree, ha, hb, hc, hmin, hmax, hd]

theorem exec_setpoint_guarded (a b c : Fp) (h : s.C.SNAP = .guarded) :
    exec (.setpoint a b c) s = .next (storeSetpoints (clampSetpoints a b c s).1
      { s with draws := (clampSetpoints a b c s).2.draws }) := by
  have hf := clampSetpoints_frame a b c s
  have hS : (clampSetpoints a b c s).2.C.SNAP = .guarded := by rw [hf]; exact h
  exact (runCommand_guarded _ _ _ hS).trans (by rw [← hf])

theorem exec_setpoint_unguarded (a b c : Fp) (h : s.C.SNAP = .unguarded) :
    exec (.setpoint a b c) s = .next { s with
      draws := (clampSetpoints a b c s).2.draws
      burst := s.burst ++ setpointAccesses (clampSetpoints a b c s).1 } := by
  have hf := clampSetpoints_frame a b c s
  have hS : (clampSetpoints a b c s).2.C.SNAP = .unguarded := by rw [hf]; exact h
  refine (runCommand_unguarded _ _ _ hS).trans ?_
  rw [State.startBurst, hf]

/-- A SETPOINT does not read the dispatcher phase. -/
theorem exec_setpoint_withPhase (a b c : Fp) (d : DispatcherPhase) (h : exec (.setpoint a b c) s = .next t) :
    exec (.setpoint a b c) { s with DPH := d } = .next { t with DPH := d } := by
  obtain ⟨hv, hn⟩ := clampSetpoints_congr (s := s) (t := { s with DPH := d }) a b c rfl rfl rfl
  cases hS : s.C.SNAP with
  | guarded =>
    rw [exec_setpoint_guarded a b c hS] at h
    cases h
    rw [exec_setpoint_guarded (s := { s with DPH := d }) a b c hS, hv, hn]
    rfl
  | unguarded =>
    rw [exec_setpoint_unguarded a b c hS] at h
    cases h
    rw [exec_setpoint_unguarded (s := { s with DPH := d }) a b c hS, hv, hn]

/-- The accesses of a SETPOINT amount to storing its three values, and the last one ends the payload phase. -/
theorem completeAll_setpointAccesses (v : PerJoint Fp) (s : State) :
    completeAll (setpointAccesses v ++ [.endPayload]) s = { storeSetpoints v s with DPH := .waitOpcode } := by
  have hstores : completeAll (setpointAccesses v) s = storeSetpoints v s := by
    simp only [completeAll, setpointAccesses, List.foldl_map, complete_storeAll, storeSetpoints]
  rw [completeAll_append, hstores]
  rfl

/-! The thirteen bytes of a SETPOINT -/

/-- Payload bytes before the twelfth, received one a step, are appended to the buffer in order. -/
theorem run_payload {bs buf : List Byte} {rest : List Input} (hu : s.uop = none) (hb : s.burst = [])
    (hd : s.DPH = .rxSetpoint buf) (hl : buf.length + bs.length ≤ 11) (hi : s.inputs = bs.map Input.rx ++ rest)
    (k : Nat) :
    core.run (k + bs.length) s = core.run k { s with inputs := rest, DPH := .rxSetpoint (buf ++ bs) } := by
  induction bs generalizing s buf with
  | nil =>
    have hi' : s.inputs = rest := hi
    rw [← hi', List.append_nil, ← hd]
    rfl
  | cons b bs ih =>
    simp only [List.length_cons] at hl
    have hstep := (step_rx hu hi hb).trans
      (dispatcherStep_payload (s := { s with inputs := bs.map Input.rx ++ rest }) (b := b) hd (by omega))
    refine (run_succ hstep _).trans ((ih (buf := buf ++ [b])
      (s := { s with inputs := bs.map Input.rx ++ rest, DPH := .rxSetpoint (buf ++ [b]) })
      hu hb rfl ?_ rfl).trans ?_)
    · simp only [List.length_append, List.length_cons, List.length_nil]
      omega
    · rw [List.append_assoc]
      rfl

/-- From phase WaitOpcode the opcode and twelve payload bytes bring a run to what the commit of the decoded
SETPOINT answers (R170, R174, R175). -/
theorem run_setpoint {payload : List Byte} {rest : List Input} {i : Instr} {more : List Byte}
    (hu : s.uop = none) (hb : s.burst = []) (hd : s.DPH = .waitOpcode) (hl : payload.length = 12)
    (hi : s.inputs = (0x04#8 :: payload).map Input.rx ++ rest) (hdec : decode (0x04#8 :: payload) = .instr i more)
    (hc : commitPayload i { s with inputs := rest, DPH := .rxSetpoint (payload.take 11) } = .next t) (k : Nat) :
    core.run (k + 13) s = core.run k t := by
  obtain ⟨init, b, rfl⟩ : ∃ init b, payload = init ++ [b] :=
    ⟨_, _, (List.dropLast_append_getLast (l := payload) (by rintro rfl; simp at hl)).symm⟩
  have hinit : init.length = 11 := by simpa using hl
  rw [List.take_left' hinit] at hc
  rw [List.map_cons, List.map_append, List.cons_append, List.append_assoc] at hi
  have hopen := (step_rx hu hi hb).trans (dispatcherStep_open hd)
  have hlast := (step_rx (s := { s with inputs := Input.rx b :: rest, DPH := .rxSetpoint init }) hu rfl hb).trans
    ((dispatcherStep_commit rfl hinit hdec).trans hc)
  calc core.run (k + 13) s
      = core.run (k + 1 + init.length) { s with
          inputs := init.map Input.rx ++ Input.rx b :: rest, DPH := .rxSetpoint [] } := by
        rw [hinit]
        exact run_succ hopen _
    _ = core.run (k + 1) { s with inputs := Input.rx b :: rest, DPH := .rxSetpoint init } :=
        run_payload (bs := init) (buf := [])
          (s := { s with inputs := init.map Input.rx ++ Input.rx b :: rest, DPH := .rxSetpoint [] })
          hu hb rfl (by simp [hinit]) rfl _
    _ = core.run k t := run_succ hlast k

/-- Twelve payload bytes are a whole SETPOINT. -/
theorem decode_setpoint_payload {payload : List Byte} (hl : payload.length = 12) :
    ∃ sp0 sp1 sp2, decode (0x04#8 :: payload) = .instr (.setpoint sp0 sp1 sp2) [] := by
  rcases decodeSetpoint_cases payload with ⟨a, b, c, h, _⟩ | ⟨_, h⟩
  · rw [List.drop_of_length_le hl.le] at h
    exact ⟨a, b, c, h⟩
  · omega

/-- An uninterrupted unguarded SETPOINT, its accesses and the end of its payload phase pending, ends after thirteen
runs of the foreground context in the state the guarded command ends in (R13, R59, log 13, log 14). -/
theorem run_unguarded_setpoint {sp0 sp1 sp2 : Fp} {u g : State} {c : Configuration} {picks : List Nat}
    {d : DispatcherPhase} (hu : s.uop = none) (hb : s.burst = []) (hd : s.DPH = .waitOpcode)
    (hi : s.inputs = picks.map Input.foreground) (hS : s.C.SNAP = .unguarded)
    (hc : c.toParameters = { s.C.toParameters with SNAP := .guarded }) (hp : picks.length = 13)
    (ht : exec (.setpoint sp0 sp1 sp2) s = .next u)
    (hg : exec (.setpoint sp0 sp1 sp2) { s with C := c, inputs := [] } = .next g) :
    core.run 13 { u with DPH := d, burst := u.burst ++ [.endPayload] } = .next { g with C := s.C } := by
  have hmin : c.min_angle = s.C.min_angle := by rw [hc]
  have hmax : c.max_angle = s.C.max_angle := by rw [hc]
  have hguarded : c.SNAP = .guarded := by rw [hc]
  obtain ⟨hv, hn⟩ := clampSetpoints_congr (s := s) (t := { s with C := c, inputs := [] }) sp0 sp1 sp2 hmin hmax rfl
  rw [exec_setpoint_unguarded sp0 sp1 sp2 hS, hb, List.nil_append] at ht
  rw [exec_setpoint_guarded (s := { s with C := c, inputs := [] }) sp0 sp1 sp2 hguarded, hv, hn] at hg
  cases ht
  cases hg
  have hrun := run_foreground (picks := picks) (rest := [])
    (s := { s with
      DPH := d
      draws := (clampSetpoints sp0 sp1 sp2 s).2.draws
      burst := setpointAccesses (clampSetpoints sp0 sp1 sp2 s).1 ++ [.endPayload] })
    hu (by simpa using hi) (by simp [setpointAccesses, joints, storeAll, allBytes, Access.size]) (by rw [hp]; rfl)
  rw [completeAll_setpointAccesses, hp] at hrun
  rw [hrun]
  simp [storeSetpoints_eq, State.withQueues, hb, hd]

/-- Settles O10: the run up to the commit, the commit under each snapshot policy, and under `unguarded` the runs of
the foreground context. -/
theorem thirteenBytesRunOneSetpoint : Obligations.ThirteenBytesRunOneSetpoint := by
  intro s payload rest hu hb hd hl hi
  obtain ⟨sp0, sp1, sp2, hdec⟩ := decode_setpoint_payload hl
  obtain ⟨t, ht⟩ := exec_answers_next (.setpoint sp0 sp1 sp2) { s with inputs := rest }
  obtain ⟨t', ht', hguarded, hunguarded⟩ := commitPayload_eq (.setpoint sp0 sp1 sp2)
    { s with inputs := rest, DPH := .rxSetpoint (payload.take 11) }
  rw [exec_setpoint_withPhase sp0 sp1 sp2 (.rxSetpoint (payload.take 11)) ht] at ht'
  cases ht'
  refine ⟨sp0, sp1, sp2, hdec, fun hS => ?_, fun hS => ⟨⟨t, ht, ?_⟩, fun c picks g hc hp hr hg => ?_⟩⟩
  · have hphase : t.DPH = .waitOpcode := (exec_keepsPorts ht).DPH.trans hd
    have hsame : ({ t with DPH := .waitOpcode } : State) = t := by rw [← hphase]
    exact ((run_setpoint hu hb hd hl hi hdec (hguarded hS) 0).trans (congrArg Host.Outcome.next hsame)).trans ht.symm
  · exact run_setpoint hu hb hd hl hi hdec (hunguarded hS) 0
  · refine (run_setpoint hu hb hd hl hi hdec (hunguarded hS) 13).trans ?_
    exact run_unguarded_setpoint (s := { s with inputs := rest }) (u := t) hu hb hd hr hS hc hp ht hg

end Sys2Proof.Machine
end

section
/-! SUPPORT. What reaches the Actuator Channels (R204 to R207): what an event makes of a gate and of a disarmed
channel's pulse width. -/

namespace Sys2Proof.Machine

variable (s : State)

/-! The gate and the pulse width after `set_cmd` -/

/-- `set_cmd` opens and closes no gate (R207). -/
@[simp] theorem setCmd_armed (j k : Joint) (cmd : Fp) :
    ((s.setCmd j cmd).ACT.get k).armed = (s.ACT.get k).armed := by
  rcases setCmd_cases s j cmd with ⟨_, h⟩ | ⟨ha, _, h⟩ | ⟨ha, _, h⟩ <;> rw [h]
  all_goals
    by_cases hjk : j = k
    · subst hjk
      simp [ha]
    · simp [hjk]

/-- A disarmed channel ignores every command, its own and those to others (R207). -/
theorem setCmd_disarmed {k : Joint} (hk : (s.ACT.get k).armed = false) (j : Joint) (cmd : Fp) :
    (s.setCmd j cmd).ACT.get k = s.ACT.get k := by
  rcases setCmd_cases s j cmd with ⟨_, h⟩ | ⟨ha, _, h⟩ | ⟨ha, _, h⟩ <;> rw [h]
  all_goals
    have hjk : j ≠ k := by
      rintro rfl
      simp [hk] at ha
    simp [hjk]

/-! The gate and the pulse width after an event -/

/-- What an event makes of the gate of joint `k`: `ActEnable k` opens it, `ActDisable k` closes it (R205, R206). -/
def Event.gate (k : Joint) (armed : Bool) : Event → Bool
  | .actEnable j => if j = k then true else armed
  | .actDisable j => if j = k then false else armed
  | _ => armed

theorem emit_armed (e : Event) (k : Joint) :
    ((s.emit e).ACT.get k).armed = e.gate k (s.ACT.get k).armed := by
  cases e with
  | actSet j v => exact setCmd_armed _ j k v
  | actEnable j => by_cases h : j = k <;> simp [State.emit, State.react, Event.gate, h]
  | actDisable j => by_cases h : j = k <;> simp [State.emit, State.react, Event.gate, h]
  | _ => rfl

theorem emitAll_armed (es : List Event) (k : Joint) :
    ((s.emitAll es).ACT.get k).armed = es.foldl (Event.gate k) (s.ACT.get k).armed := by
  induction es generalizing s with
  | nil => rfl
  | cons e es ih => exact (ih (s.emit e)).trans (by rw [emit_armed, List.foldl_cons])

variable {s}

theorem DisarmedMeansNoPulse.of_ACT {t : State} (h : DisarmedMeansNoPulse s) (hA : t.ACT = s.ACT) :
    DisarmedMeansNoPulse t := by
  rw [DisarmedMeansNoPulse, hA]
  exact h

theorem setCmd_keeps_disarmedMeansNoPulse (h : DisarmedMeansNoPulse s) (j : Joint) (cmd : Fp) :
    DisarmedMeansNoPulse (s.setCmd j cmd) := by
  intro k hk
  rw [setCmd_armed] at hk
  rw [setCmd_disarmed s hk]
  exact h k hk

/-- No event leaves a disarmed channel with a pulse: `ActEnable` arms, `ActDisable` zeroes, a command to a disarmed
channel is ignored (R205 to R207). -/
theorem emit_keeps_disarmedMeansNoPulse (h : DisarmedMeansNoPulse s) (e : Event) :
    DisarmedMeansNoPulse (s.emit e) := by
  cases e with
  | actSet j v => exact setCmd_keeps_disarmedMeansNoPulse (s := { s with events := s.events ++ [.actSet j v] }) h j v
  | actEnable j =>
    refine setCmd_keeps_disarmedMeansNoPulse (fun k hk => ?_) j Fp.zero
    by_cases hjk : j = k
    · simp [hjk] at hk
    · simp only [State.setAct_ACT, PerJoint.get_set, hjk, if_false] at hk ⊢
      exact h k hk
  | actDisable j =>
    intro k hk
    by_cases hjk : j = k
    · simp [State.emit, State.react, hjk]
    · simp only [State.emit, State.react, State.setAct_ACT, PerJoint.get_set, hjk, if_false] at hk ⊢
      exact h k hk
  | _ => exact h

theorem emitAll_keeps_disarmedMeansNoPulse (h : DisarmedMeansNoPulse s) (es : List Event) :
    DisarmedMeansNoPulse (s.emitAll es) := by
  induction es generalizing s with
  | nil => exact h
  | cons e es ih => exact ih (emit_keeps_disarmedMeansNoPulse h e)

end Sys2Proof.Machine
end

section
/-! SUPPORT. The invariant (R28, R31, R32, R91, R182, R204, R206): it holds after power-on, a TICK keeps it joint by
joint, each instruction keeps it at one instant or by starting its accesses, and so does every step. -/

namespace Sys2Proof.Machine

variable {s t : State}

/-! The invariant and the operations that leave the ports alone -/

/-- What the invariant promises of the controllers, the gates and the commands between two guarded steps. -/
def Settled (s : State) : Prop := ResetMeansZero s ∧ GateFollowsMen s ∧ DisabledMeansZero s

/-- What an operation that leaves the ports and the pending accesses alone has to keep. -/
theorem Inv.of_keepsPorts (hI : Inv s) (hports : KeepsPorts s t) (hburst : t.burst = s.burst)
    (hpulse : DisarmedMeansNoPulse s → DisarmedMeansNoPulse t) (hsettled : Settled s → Settled t) : Inv t := by
  obtain ⟨hu, hphase, hp, hguarded⟩ := hI
  refine ⟨hports.uop.trans hu, fun buf hd => hphase buf (hports.DPH ▸ hd), hpulse hp, fun hS => ?_⟩
  obtain ⟨hb, hs⟩ := hguarded (hports.C ▸ hS)
  exact ⟨hburst.trans hb, hsettled hs⟩

/-- A write of the dispatcher phase keeps the invariant if at most 11 payload bytes are then held (R31). -/
theorem Inv.withPhase (hI : Inv s) {d : DispatcherPhase} (hd : ∀ buf, d = .rxSetpoint buf → buf.length ≤ 11) :
    Inv { s with DPH := d } := by
  obtain ⟨hu, _, hp, hguarded⟩ := hI
  exact ⟨hu, hd, hp, hguarded⟩

/-- Under `unguarded` nothing is promised of the pending accesses. -/
theorem Inv.startBurst (hI : Inv s) (hS : s.C.SNAP = .unguarded) (l : List Access) : Inv (s.startBurst l) := by
  obtain ⟨hu, hphase, hp, _⟩ := hI
  exact ⟨hu, hphase, hp, fun hg => by simp [hS] at hg⟩

/-- Every power-on state has the invariant (R42; log 10, log 12). -/
theorem inv_powerOn (c : Configuration) (grip : Grip) : Inv (State.powerOn c grip) := by
  refine ⟨rfl, ?_, ?_, fun _ => ⟨rfl, ?_, ?_, ?_⟩⟩
  · intro buf h
    cases h
  · intro j _
    simp
  · intro j _
    simp [PidState.atReset]
  · intro j
    simp
  · intro _ j
    simp [JointState.atReset]

/-- Settles O14: both are power-on states. -/
theorem invariantHoldsAfterReset : Obligations.InvariantHoldsAfterReset :=
  ⟨inv_powerOn, inv_powerOn Configuration.atReset .opened⟩

/-! The control cycle and the micro-operations -/

theorem velSample_keeps_inv (hI : Inv s) (j : Joint) (a : Fp) : Inv (velSample j a s) := by
  refine hI.of_keepsPorts ⟨rfl, rfl, rfl, rfl⟩ rfl id
    fun ⟨hreset, hgate, hzero⟩ => ⟨hreset, hgate, fun hM k => ?_⟩
  have hk := hzero hM k
  by_cases h : j = k
  · subst h
    simpa [velSample] using hk
  · simpa [velSample, h] using hk

theorem resetMeansZero_set {j : Joint} {p : PidState} (h : ResetMeansZero s)
    (hp : p.first = true → p.ui = Fp.zero ∧ p.error_prev = Fp.zero) : ResetMeansZero (s.setP j p) := by
  intro k
  by_cases hjk : j = k
  · simpa [hjk] using hp
  · simpa [hjk] using h k

theorem pidReset_keeps_inv (hI : Inv s) (j : Joint) : Inv (pidReset j s) :=
  hI.of_keepsPorts ⟨rfl, rfl, rfl, rfl⟩ rfl id fun ⟨hreset, hgate, hzero⟩ =>
    ⟨resetMeansZero_set hreset fun _ => ⟨rfl, rfl⟩, hgate, hzero⟩

/-- After an update the controller has left state Reset (R28, R119). -/
theorem pidUpdate_keeps_resetMeansZero (h : ResetMeansZero s) (j : Joint) (e ff : Fp) :
    ResetMeansZero (pidUpdate j e ff s).2 := by
  rw [pidUpdate_eq]
  exact resetMeansZero_set (j := j) (p := ⟨pidUiStored s j e ff, e, false⟩) h (by simp)

theorem pidUpdate_keeps_inv (hI : Inv s) (j : Joint) (e ff : Fp) : Inv (pidUpdate j e ff s).2 := by
  refine hI.of_keepsPorts (by constructor <;> simp) (by simp) (fun hp => hp.of_ACT (by simp))
    fun ⟨hreset, hgate, hzero⟩ => ⟨pidUpdate_keeps_resetMeansZero hreset j e ff, ?_, ?_⟩
  · simpa [GateFollowsMen] using hgate
  · simpa [DisabledMeansZero] using hzero

/-- The enabled path writes a voltage command, which the invariant leaves free with motors enabled (R32). -/
theorem servoJoint_keeps_inv (hI : Inv s) (hM : s.MEN = true) (j : Joint) : Inv (servoJoint j s) := by
  have hI' := pidUpdate_keeps_inv hI j (jointError s j) Fp.zero
  refine hI'.of_keepsPorts (by constructor <;> simp [servoJoint]) (by simp [servoJoint])
    (fun hp => emit_keeps_disarmedMeansNoPulse (hp.of_ACT (by simp)) _)
    fun ⟨hreset, hgate, _⟩ => ⟨?_, fun k => ?_, fun hM' => ?_⟩
  · simpa [ResetMeansZero, servoJoint, State.writeField] using hreset
  · simpa [servoJoint, emit_armed, Event.gate] using hgate k
  · simp [servoJoint, hM] at hM'

theorem tickJoint_keeps_inv (hI : Inv s) (j : Joint) (a : Fp) : Inv (tickJoint j a s) := by
  have hsampled : Inv (velSample j a (s.emit (.encRead j))) := velSample_keeps_inv hI j a
  unfold tickJoint
  simp only
  split
  · rename_i hM
    exact servoJoint_keeps_inv hsampled hM j
  · exact hsampled

theorem tick_keeps_inv (hI : Inv s) (a : PerJoint Fp) : Inv (tick a s) :=
  tickJoint_keeps_inv (tickJoint_keeps_inv (tickJoint_keeps_inv hI 0 a.j0) 1 a.j1) 2 a.j2

/-! The host commands -/

/-- ENABLE resets every controller and opens every gate (R171). -/
theorem enableAtOnce_keeps_inv (hI : Inv s) : Inv (enableAtOnce s) := by
  refine hI.of_keepsPorts (by constructor <;> simp [enableAtOnce, joints]) (by simp [enableAtOnce, joints])
    (fun hp => emitAll_keeps_disarmedMeansNoPulse (hp.of_ACT (by simp [joints])) _)
    fun _ => ⟨fun k _ => ?_, fun k => ?_, fun hM => ?_⟩
  · fin_cases k <;> simp [enableAtOnce, joints, PidState.atReset]
  · rw [enableAtOnce, emitAll_armed, emitAll_MEN]
    fin_cases k <;> rfl
  · simp [enableAtOnce, joints] at hM

/-- DISABLE closes every gate with zero pulse width (R172, R206). -/
theorem disableAtOnce_channel (s : State) (k : Joint) : (disableAtOnce s).ACT.get k = ⟨false, Fp.zero⟩ := by
  fin_cases k <;> rfl

/-- DISABLE zeroes every voltage command and closes every gate (R172). -/
theorem disableAtOnce_keeps_inv (hI : Inv s) : Inv (disableAtOnce s) := by
  refine hI.of_keepsPorts (by constructor <;> simp [disableAtOnce, joints]) (by simp [disableAtOnce, joints])
    (fun _ k _ => by rw [disableAtOnce_channel]) fun ⟨hreset, _, _⟩ => ⟨?_, fun k => ?_, fun _ k => ?_⟩
  · simpa [ResetMeansZero, disableAtOnce, joints, State.writeField] using hreset
  · rw [disableAtOnce_channel]
    simp [disableAtOnce, joints]
  · fin_cases k <;> simp [disableAtOnce, joints, State.writeField]

theorem storeSetpoints_get (v : PerJoint Fp) (s : State) (j : Joint) :
    (storeSetpoints v s).J.get j = { s.J.get j with setpoint := v.get j } := by
  fin_cases j <;> rfl

theorem storeSetpoints_keeps_inv (hI : Inv s) (v : PerJoint Fp) : Inv (storeSetpoints v s) := by
  refine hI.of_keepsPorts (by rw [storeSetpoints_eq]; exact ⟨rfl, rfl, rfl, rfl⟩) rfl id
    fun ⟨hreset, hgate, hzero⟩ => ⟨hreset, hgate, fun hM k => ?_⟩
  rw [storeSetpoints_get]
  exact hzero hM k

theorem runCommand_keeps_inv {f : State → State} {l : List Access} (h : runCommand f l s = .next t)
    (hI : Inv s) (hf : Inv (f s)) : Inv t := by
  rcases runCommand_cases s f l with ⟨_, e⟩ | ⟨hS, e⟩ <;> rw [e] at h <;> cases h
  · exact hf
  · exact hI.startBurst hS l

theorem exec_keeps_inv (hI : Inv s) {i : Instr} (h : exec i s = .next t) : Inv t := by
  cases i with
  | enable => exact runCommand_keeps_inv h hI (enableAtOnce_keeps_inv hI)
  | disable => exact runCommand_keeps_inv h hI (disableAtOnce_keeps_inv hI)
  | getstate => exact runCommand_keeps_inv h hI hI
  | setpoint a b c =>
    have hclamped : Inv (clampSetpoints a b c s).2 := by rw [clampSetpoints_frame]; exact hI
    exact runCommand_keeps_inv h hclamped (storeSetpoints_keeps_inv hclamped _)
  | gripopen => exact runCommand_keeps_inv h hI hI
  | gripclose => exact runCommand_keeps_inv h hI hI
  | velSample j a => cases h; exact velSample_keeps_inv hI j a
  | pidUpdate j e ff => cases h; exact pidUpdate_keeps_inv hI j e ff
  | pidReset j => cases h; exact pidReset_keeps_inv hI j

/-! The two execution contexts -/

theorem perform_keeps_disarmedMeansNoPulse (h : DisarmedMeansNoPulse s) (pick : Nat) (a : Access) :
    DisarmedMeansNoPulse (a.perform pick s).1 := by
  cases a with
  | store j f w left =>
    cases left with
    | nil => exact h
    | cons b bs => exact h.of_ACT (by simp [Access.perform, State.storeByte])
  | emit e => exact emit_keeps_disarmedMeansNoPulse h e
  | _ => exact h

/-- Under `guarded` no access is pending and the foreground context waits; under `unguarded` it makes one access. -/
theorem foreground_keeps_inv (hI : Inv s) (pick : Nat) : Inv (foreground pick s) := by
  rcases foreground_cases s pick with ⟨_, e⟩ | ⟨a, rest, hb, e⟩ <;> rw [e]
  · exact hI
  · obtain ⟨hu, hphase, hp, hguarded⟩ := hI
    have hframe := perform_frame s pick a
    refine ⟨?_, fun buf hd => ?_, perform_keeps_disarmedMeansNoPulse hp pick a, fun hS => ?_⟩
    · rw [hframe]
      exact hu
    · simp only [perform_DPH] at hd
      split at hd
      · cases hd
      · exact hphase buf hd
    · rw [hframe] at hS
      simp [hb] at hguarded
      exact absurd hS hguarded

theorem commitPayload_keeps_inv (hI : Inv s) {i : Instr} (h : commitPayload i s = .next t) : Inv t := by
  obtain ⟨u, hu, ⟨_, e⟩ | ⟨hS, e⟩⟩ := commitPayload_cases i s <;> rw [e] at h <;> cases h
  · exact (exec_keeps_inv hI hu).withPhase nofun
  · exact (exec_keeps_inv hI hu).startBurst hS _

theorem dispatcherStep_keeps_inv (hI : Inv s) {b : Byte} (h : dispatcherStep b s = .next t) : Inv t := by
  rcases dispatcherStep_cases h with ⟨_, _, _, _, h⟩ | ⟨_, _, rfl⟩ | ⟨_, _, rfl⟩ | ⟨buf, _, hl, rfl⟩ |
    ⟨_, _, _, _, _, _, h⟩ | ⟨_, _, _, rfl⟩
  · exact exec_keeps_inv hI h
  · exact hI.withPhase (by rintro _ ⟨⟩; simp)
  · exact hI
  · exact hI.withPhase (by rintro _ ⟨⟩; rw [List.length_append, List.length_singleton]; omega)
  · exact commitPayload_keeps_inv hI h
  · exact hI.withPhase nofun

/-- Settles O13: by the kinds of step. Taking an input and drawing a value touch nothing the invariant speaks of. -/
theorem everyStepKeepsTheInvariant : Obligations.EveryStepKeepsTheInvariant := by
  intro s t hI h
  have hu : s.uop = none := hI.1
  rw [step_of_no_uop hu] at h
  rcases stepInputs_cases h with ⟨_, _, rfl⟩ | ⟨_, _, rfl⟩ | ⟨a, rest, _, rfl⟩ | ⟨p, rest, _, rfl⟩ |
    ⟨b, rest, _, _, h⟩ | ⟨k, rest, _, rfl⟩ | ⟨cfg, g, rest, ok, _, rfl⟩
  · exact tick_keeps_inv (s := { s with draws := s.draws + 3 }) hI _
  · exact foreground_keeps_inv hI 0
  · exact tick_keeps_inv (s := { s with inputs := rest }) hI a
  · exact tick_keeps_inv (s := { s with inputs := rest }) hI _
  · exact dispatcherStep_keeps_inv (s := { s with inputs := rest }) hI h
  · exact foreground_keeps_inv (s := { s with inputs := rest }) hI k
  · exact inv_powerOn ⟨cfg, ok⟩ g

end Sys2Proof.Machine
end

section
/-! SUPPORT. The bytes of a command at the dispatcher (R31, R66, R170) and the model's own placing of an instruction
(log 15). -/

namespace Sys2Proof.Machine

variable {s t : State}

/-- Settles O9: the two equations of the dispatcher for bytes that complete no command. -/
theorem payloadBytesAreNeverOpcodes : Obligations.PayloadBytesAreNeverOpcodes := by
  refine ⟨fun s rest hu hi hb hd => ?_, fun s b rest buf hu hi hb hd hl => ?_⟩
  · exact (step_rx hu hi hb).trans (dispatcherStep_open hd)
  · exact (step_rx hu hi hb).trans (dispatcherStep_payload hd hl)

/-! What an encoded instruction decodes to -/

/-- The select word and buses of a micro-operation decode to it (R91). -/
theorem decodeMicro_of_encode {i : Instr} {w : BitVec 4} {A B : Fp} (h : encode i = .micro w A B) :
    decodeMicro w A B = some i := by
  cases i with
  | velSample j a => cases h; fin_cases j <;> rfl
  | pidUpdate j e ff => cases h; fin_cases j <;> rfl
  | pidReset j => cases h; fin_cases j <;> rfl
  | _ => cases h

/-- The bytes of a host command are its opcode alone, or the opcode of SETPOINT with twelve payload bytes; they
decode to it (R81 to R86). -/
theorem encode_host_cases {i : Instr} {bytes : List Byte} (h : encode i = .host bytes) :
    (∃ b, bytes = [b] ∧ decode [b] = .instr i []) ∨
    (∃ sp0 sp1 sp2 init b, i = .setpoint sp0 sp1 sp2 ∧ bytes = 0x04#8 :: (init ++ [b]) ∧ init.length = 11 ∧
      decode (0x04#8 :: (init ++ [b])) = .instr (.setpoint sp0 sp1 sp2) []) := by
  cases i with
  | setpoint sp0 sp1 sp2 =>
    cases h
    refine .inr ⟨sp0, sp1, sp2, bytesOfWord sp0 ++ bytesOfWord sp1 ++ [byteOf sp2 0, byteOf sp2 1, byteOf sp2 2],
      byteOf sp2 3, rfl, rfl, rfl, ?_⟩
    have hdec : decode (0x04#8 :: (bytesOfWord sp0 ++ bytesOfWord sp1 ++ bytesOfWord sp2)) = .instr (.setpoint
        (wordOfBytes (byteOf sp0 0) (byteOf sp0 1) (byteOf sp0 2) (byteOf sp0 3))
        (wordOfBytes (byteOf sp1 0) (byteOf sp1 1) (byteOf sp1 2) (byteOf sp1 3))
        (wordOfBytes (byteOf sp2 0) (byteOf sp2 1) (byteOf sp2 2) (byteOf sp2 3))) [] := rfl
    simp only [wordOfBytes_byteOf] at hdec
    exact hdec
  | velSample j a => cases h
  | pidUpdate j e ff => cases h
  | pidReset j => cases h
  | _ => cases h; exact .inl ⟨_, rfl, rfl⟩

/-! The placing of a command as its last byte (log 15) -/

theorem place_opcode (s : State) (b : Byte) : s.place (.host [b]) =
    { s with DPH := .waitOpcode, uop := none, burst := [], inputs := .rx b :: s.inputs } := rfl

theorem place_payload (s : State) (o b : Byte) (init : List Byte) : s.place (.host (o :: (init ++ [b]))) =
    { s with DPH := .rxSetpoint init, uop := none, burst := [], inputs := .rx b :: s.inputs } := by
  simp only [State.place, ← List.cons_append, List.dropLast_concat, List.getLastD_concat, phaseBeforeLast]

/-- The step after placing a one-byte command runs it (R170). -/
theorem step_place_opcode {b : Byte} {i : Instr} (h : decode [b] = .instr i []) (s : State) :
    step (s.place (.host [b])) = exec i { s with DPH := .waitOpcode, uop := none, burst := [] } := by
  rw [place_opcode, step_rx rfl rfl rfl, dispatcherStep_opcode rfl h]

/-- The step after placing a SETPOINT commits it (R175): under `guarded` with the effect of the instruction in phase
WaitOpcode, under `unguarded` with the write of that phase pending behind its accesses. -/
theorem step_place_setpoint {sp0 sp1 sp2 : Fp} {init : List Byte} {b : Byte} (hl : init.length = 11)
    (h : decode (0x04#8 :: (init ++ [b])) = .instr (.setpoint sp0 sp1 sp2) []) (s : State) :
    ∃ t, exec (.setpoint sp0 sp1 sp2) { s with DPH := .waitOpcode, uop := none, burst := [] } = .next t ∧
      (s.C.SNAP = .guarded → step (s.place (.host (0x04#8 :: (init ++ [b])))) = .next t) ∧
      (s.C.SNAP = .unguarded → step (s.place (.host (0x04#8 :: (init ++ [b])))) =
        .next { t with DPH := .rxSetpoint init, burst := t.burst ++ [.endPayload] }) := by
  obtain ⟨t, ht⟩ := exec_answers_next (.setpoint sp0 sp1 sp2) { s with DPH := .waitOpcode, uop := none, burst := [] }
  obtain ⟨t', ht', hguarded, hunguarded⟩ := commitPayload_eq (.setpoint sp0 sp1 sp2)
    { s with DPH := .rxSetpoint init, uop := none, burst := [] }
  have hphase : t.DPH = .waitOpcode := (exec_keepsPorts ht).DPH
  rw [exec_setpoint_withPhase sp0 sp1 sp2 (.rxSetpoint init) ht] at ht'
  cases ht'
  rw [place_payload, step_rx rfl rfl rfl, dispatcherStep_commit rfl hl h]
  refine ⟨t, ht, fun hS => (hguarded hS).trans ?_, hunguarded⟩
  rw [← hphase]

/-- Settles O7: by the code of the instruction, a select word, one byte, or the thirteen bytes of a SETPOINT. -/
theorem placedInstructionRunsNext : Obligations.PlacedInstructionRunsNext := by
  intro s i
  refine ⟨fun bytes h => ?_, fun w A B h => ?_⟩
  · rw [h]
    rcases encode_host_cases h with ⟨b, rfl, hdec⟩ | ⟨sp0, sp1, sp2, init, b, rfl, rfl, hl, hdec⟩
    · exact ⟨fun _ => step_place_opcode hdec s, fun hlen => absurd rfl hlen⟩
    · obtain ⟨t, ht, hguarded, hunguarded⟩ := step_place_setpoint hl hdec s
      refine ⟨fun hS => ?_, fun _ hS => ⟨t, ht, (hunguarded hS).trans ?_⟩⟩
      · rw [ht]
        exact hguarded (hS.resolve_left (by simp [hl]))
      · rw [← List.cons_append, List.dropLast_concat, List.tail_cons]
  · rw [h]
    exact (step_of_uop rfl).trans (microStep_decoded (decodeMicro_of_encode h) _)

end Sys2Proof.Machine
end

section
/-! SUPPORT. The micro-operations of one joint and the records of the others (R27, R110, R140). -/

namespace Sys2Proof

theorem PerJoint.set_comm {α : Type} (p : PerJoint α) {j k : Joint} (h : j ≠ k) (v w : α) :
    (p.set j v).set k w = (p.set k w).set j v := by
  refine PerJoint.ext_get fun l => ?_
  by_cases hj : j = l
  · have hk : k ≠ l := fun hk => h (hj.trans hk.symm)
    simp [hj, hk]
  · simp [hj]

end Sys2Proof

namespace Sys2Proof.Machine

/-- `s` with other records of joint `k`. -/
def State.withRecords (s : State) (k : Joint) (p : PidState) (q : JointState) : State :=
  { s with P := s.P.set k p, J := s.J.set k q }

section
variable (s : State) {j k : Joint} (h : j ≠ k) (p : PidState) (q : JointState)
include h

theorem withRecords_P_get : (s.withRecords k p q).P.get j = s.P.get j := PerJoint.get_set_ne _ h.symm _

theorem withRecords_J_get : (s.withRecords k p q).J.get j = s.J.get j := PerJoint.get_set_ne _ h.symm _

theorem velSample_withRecords (a : Fp) :
    velSample j a (s.withRecords k p q) = (velSample j a s).withRecords k p q := by
  rw [velSample_eq, velocityOf, withRecords_J_get s h]
  simp only [State.withRecords, velSample_eq, velocityOf, PerJoint.set_comm _ h]

theorem pidReset_withRecords : pidReset j (s.withRecords k p q) = (pidReset j s).withRecords k p q := by
  simp only [pidReset_eq, State.setP, State.withRecords, PerJoint.set_comm _ h]

/-- The sum of R117 reads the joint's own record alone. -/
theorem pidUnsat_withRecords (e ff : Fp) : pidUnsat (s.withRecords k p q) j e ff = pidUnsat s j e ff := by
  simp only [pidUnsat, pidUp, pidUiNext, pidUd, withRecords_P_get s h]
  rfl

theorem pidUiStored_withRecords (e ff : Fp) :
    pidUiStored (s.withRecords k p q) j e ff = pidUiStored s j e ff := by
  simp only [pidUiStored, pidUnsat_withRecords s h, pidUiNext, withRecords_P_get s h]
  rfl

omit h in
/-- `clampFree` reads the counter of drawn values alone. -/
theorem clampFree_withRecords (x lo hi : Fp) : (s.withRecords k p q).clampFree x lo hi =
    ((s.clampFree x lo hi).1, (s.clampFree x lo hi).2.withRecords k p q) := by
  cases hx : Fp.isNaN x
  · simp only [clampFree_of_not_nan _ hx]
  · simp only [clampFree_of_nan _ hx]
    rfl

theorem pidUpdate_withRecords (e ff : Fp) : (pidUpdate j e ff (s.withRecords k p q)).2 =
    (pidUpdate j e ff s).2.withRecords k p q := by
  rw [pidUpdate_eq, pidUpdate_eq, pidUnsat_withRecords s h, pidUiStored_withRecords s h, clampFree_withRecords]
  simp only [State.withRecords, PerJoint.set_comm _ h]

end

/-- Settles O27: each of the three micro-operations writes the records of its joint and reads no others. -/
theorem jointsAreIndependent : Obligations.JointsAreIndependent := by
  rintro s t j k p q a e ff _ h (rfl | rfl | rfl) ht <;> cases ht
  · exact ⟨by simp [h], by simp, congrArg Host.Outcome.next (pidUpdate_withRecords s h p q e ff)⟩
  · exact ⟨by simp [h], by simp, congrArg Host.Outcome.next (pidReset_withRecords s h p q)⟩
  · exact ⟨rfl, by simp [velSample, h], congrArg Host.Outcome.next (velSample_withRecords s h p q a)⟩

end Sys2Proof.Machine
end

section
/-! SUPPORT. Setpoints and their limits (R21, R39, R176): a SETPOINT stores values within them, and nothing else but
power-on writes a setpoint. -/

namespace Sys2Proof.Machine

variable {s t : State} {j : Joint}

/-- The limits of every configuration are in order (R8). -/
theorem limits_ordered (c : Configuration) (j : Joint) : Fp.le (c.min_angle.get j) (c.max_angle.get j) = true := by
  obtain ⟨_, _, _, _, hjoints⟩ := (parameters_valid_iff c.toParameters).1 c.ok
  obtain ⟨_, _, _, _, _, _, _, _, _, hle⟩ := (jointValid_iff _ j).1 (hjoints j).1
  exact hle

/-! What keeps a setpoint -/

theorem SetpointInRange.of_eq (h : SetpointInRange s j) (hC : t.C = s.C)
    (hJ : (t.J.get j).setpoint = (s.J.get j).setpoint) : SetpointInRange t j := by
  rw [SetpointInRange, hC, hJ]
  exact h

/-- A TICK writes no setpoint (R154). -/
theorem tickJoint_setpoint (s : State) (i : Joint) (a : Fp) (j : Joint) :
    ((tickJoint i a s).J.get j).setpoint = (s.J.get j).setpoint := by
  unfold tickJoint
  simp only
  split
  · rw [servoJoint_frame]
    by_cases h : i = j <;> simp [velSample, h]
  · by_cases h : i = j <;> simp [velSample, h]

theorem tick_setpoint (a : PerJoint Fp) (s : State) (j : Joint) :
    ((tick a s).J.get j).setpoint = (s.J.get j).setpoint := by
  simp only [tick, tickJoint_setpoint]

theorem tick_keeps_setpointInRange (h : SetpointInRange s j) (a : PerJoint Fp) : SetpointInRange (tick a s) j :=
  h.of_eq (tick_C s a) (tick_setpoint a s j)

theorem enableAtOnce_keeps_setpointInRange (h : SetpointInRange s j) : SetpointInRange (enableAtOnce s) j :=
  h.of_eq (by simp [enableAtOnce, joints]) (by simp [enableAtOnce, joints])

theorem disableAtOnce_keeps_setpointInRange (h : SetpointInRange s j) : SetpointInRange (disableAtOnce s) j := by
  refine h.of_eq (by simp [disableAtOnce, joints]) ?_
  fin_cases j <;> simp [disableAtOnce, joints, State.writeField]

/-! A SETPOINT stores values within the limits -/

theorem clampSetpoints_get {a b c : Fp} (h : Fp.isNaN (setpointOperand a b c j) = false) (s : State) :
    (clampSetpoints a b c s).1.get j =
      clamp (setpointOperand a b c j) (s.C.min_angle.get j) (s.C.max_angle.get j) := by
  fin_cases j <;> exact (congrArg Prod.fst (clampFree_of_not_nan _ h _ _)).trans (by simp [clampSetpoint])

theorem storeSetpoints_setpointInRange {a b c : Fp} (h : Fp.isNaN (setpointOperand a b c j) = false) (n : Nat) :
    SetpointInRange (storeSetpoints (clampSetpoints a b c s).1 { s with draws := n }) j := by
  rw [SetpointInRange, storeSetpoints_get, clampSetpoints_get h]
  exact clamp_mem_bounds (limits_ordered s.C j) h

theorem runCommand_keeps_setpointInRange {f : State → State} {l : List Access} (h : runCommand f l s = .next t)
    (hs : SetpointInRange s j) (hf : SetpointInRange (f s) j) : SetpointInRange t j := by
  rcases runCommand_cases s f l with ⟨_, e⟩ | ⟨_, e⟩ <;> rw [e] at h <;> cases h
  · exact hf
  · exact hs

/-- An instruction keeps a setpoint within its limits, but for a SETPOINT with a NaN for its joint (U1). -/
theorem exec_keeps_setpointInRange {i : Instr} (hs : SetpointInRange s j)
    (hnan : ∀ sp0 sp1 sp2, i = .setpoint sp0 sp1 sp2 → Fp.isNaN (setpointOperand sp0 sp1 sp2 j) = false)
    (h : exec i s = .next t) : SetpointInRange t j := by
  cases i with
  | enable => exact runCommand_keeps_setpointInRange h hs (enableAtOnce_keeps_setpointInRange hs)
  | disable => exact runCommand_keeps_setpointInRange h hs (disableAtOnce_keeps_setpointInRange hs)
  | getstate => exact runCommand_keeps_setpointInRange h hs hs
  | setpoint a b c =>
    cases hS : s.C.SNAP with
    | guarded =>
      rw [exec_setpoint_guarded a b c hS] at h
      cases h
      exact storeSetpoints_setpointInRange (hnan a b c rfl) _
    | unguarded =>
      rw [exec_setpoint_unguarded a b c hS] at h
      cases h
      exact hs
  | gripopen => exact runCommand_keeps_setpointInRange h hs hs
  | gripclose => exact runCommand_keeps_setpointInRange h hs hs
  | velSample k a =>
    cases h
    refine hs.of_eq rfl ?_
    by_cases hk : k = j <;> simp [velSample, hk]
  | pidUpdate k e ff => cases h; exact hs.of_eq (by simp) (by simp)
  | pidReset k => cases h; exact hs

/-! Which steps run a SETPOINT -/

/-- One byte is never a whole SETPOINT (R84). -/
theorem decode_singleton_ne_setpoint {b : Byte} {i : Instr} {rest : List Byte} (h : decode [b] = .instr i rest)
    (sp0 sp1 sp2 : Fp) : i ≠ .setpoint sp0 sp1 sp2 := by
  rintro rfl
  rcases decode_cases b [] with ⟨_, e⟩ | ⟨_, e⟩ | ⟨_, e⟩ | ⟨_, e⟩ | ⟨_, e⟩ | ⟨_, e⟩ | ⟨_, e⟩ <;>
    rw [e] at h <;> cases h

/-- No select word is a SETPOINT (R91). -/
theorem decodeMicro_ne_setpoint {w : BitVec 4} {A B : Fp} {i : Instr} (h : decodeMicro w A B = some i)
    (sp0 sp1 sp2 : Fp) : i ≠ .setpoint sp0 sp1 sp2 := by
  rintro rfl
  unfold decodeMicro at h
  split at h
  · cases h
  · dsimp only at h
    split_ifs at h <;> cases h

/-- Everything the dispatcher does keeps a setpoint within its limits, unless this byte completes a SETPOINT with a
NaN for that joint. -/
theorem dispatcherStep_keeps_setpointInRange {b : Byte} (hs : SetpointInRange s j)
    (hnan : ∀ buf sp0 sp1 sp2 more, s.DPH = .rxSetpoint buf →
      decode (0x04#8 :: (buf ++ [b])) = .instr (.setpoint sp0 sp1 sp2) more →
      Fp.isNaN (setpointOperand sp0 sp1 sp2 j) = false)
    (h : dispatcherStep b s = .next t) : SetpointInRange t j := by
  rcases dispatcherStep_cases h with ⟨_, i, _, hdec, h⟩ | ⟨_, _, rfl⟩ | ⟨_, _, rfl⟩ | ⟨_, _, _, rfl⟩ |
    ⟨buf, i, rest, hd, _, hdec, h⟩ | ⟨_, _, _, rfl⟩
  case inl =>
    exact exec_keeps_setpointInRange hs
      (fun _ _ _ hi => absurd hi (decode_singleton_ne_setpoint hdec _ _ _)) h
  case inr.inr.inr.inr.inl =>
    obtain ⟨u, hu, e⟩ := commitPayload_cases i s
    have hsu : SetpointInRange u j := exec_keeps_setpointInRange hs
      (fun _ _ _ hi => hnan buf _ _ _ rest hd (hi ▸ hdec)) hu
    rcases e with ⟨_, e⟩ | ⟨_, e⟩ <;> rw [e] at h <;> cases h <;> exact hsu
  all_goals exact hs

/-- Settles O42: by the kinds of step; with no access pending a run of the foreground context waits. -/
theorem setpointStaysWithinItsLimits : Obligations.SetpointStaysWithinItsLimits := by
  intro s t j _ hb hpower hnan hs h
  rcases step_cases h with ⟨_, h⟩ | ⟨m, i, _, hdec, h⟩
  · rcases stepInputs_cases h with ⟨_, _, rfl⟩ | ⟨hb', _, _⟩ | ⟨a, rest, _, rfl⟩ | ⟨p, rest, _, rfl⟩ |
      ⟨b, rest, hi, _, h⟩ | ⟨k, rest, _, rfl⟩ | ⟨cfg, g, rest, _, hi, _⟩
    · exact tick_keeps_setpointInRange (s := { s with draws := s.draws + 3 }) hs _
    · exact absurd hb hb'
    · exact tick_keeps_setpointInRange (s := { s with inputs := rest }) hs a
    · exact tick_keeps_setpointInRange (s := { s with inputs := rest }) hs _
    · exact dispatcherStep_keeps_setpointInRange (s := { s with inputs := rest }) hs
        (fun buf sp0 sp1 sp2 more hd => hnan buf b rest sp0 sp1 sp2 more hd hi) h
    · rw [foreground, hb]
      exact hs
    · exact absurd ⟨cfg, g, rest, hi⟩ hpower
  · exact exec_keeps_setpointInRange (s := { s with uop := none }) hs
      (fun _ _ _ hi => absurd hi (decodeMicro_ne_setpoint hdec _ _ _)) h

end Sys2Proof.Machine
end

section
/-! SUPPORT. The telemetry of GETSTATE (R51, R173): where each byte stands in the payload. -/

namespace Sys2Proof.Machine

/-- In a concatenation of blocks of one length, place `r` of block `q`. -/
theorem getElem?_flatMap_block {α β : Type} {f : α → List β} {n : Nat} (hf : ∀ x, (f x).length = n)
    {l : List α} {q r : Nat} {x : α} (hq : l[q]? = some x) (hr : r < n) : (l.flatMap f)[n * q + r]? = (f x)[r]? := by
  induction l generalizing q with
  | nil => simp at hq
  | cons y l ih =>
    rw [List.flatMap_cons]
    cases q with
    | zero =>
      obtain rfl : y = x := by simpa using hq
      rw [Nat.mul_zero, Nat.zero_add, List.getElem?_append_left (by rw [hf]; exact hr)]
    | succ q =>
      have hq' : l[q]? = some x := by simpa using hq
      rw [List.getElem?_append_right (by rw [hf, Nat.mul_succ]; omega), hf, ← ih hq']
      congr 1
      rw [Nat.mul_succ]
      omega

/-- The bytes GETSTATE sends of one joint (R51). -/
def State.jointTelemetry (s : State) (j : Joint) : List Byte :=
  telemetryFields.flatMap fun f => bytesOfWord (s.readField j f)

theorem telemetry_eq (s : State) : s.telemetry = joints.flatMap s.jointTelemetry := rfl

theorem length_telemetry (s : State) : s.telemetry.length = 48 := rfl

theorem getElem?_bytesOfWord (w : Fp) (i : Fin 4) : (bytesOfWord w)[i.val]? = some (byteOf w i) := by
  fin_cases i <;> rfl

/-- Byte `i` of field `k` of joint `j` stands at `16*j + 4*k + i` (R51). -/
theorem getElem?_telemetry (s : State) (j : Joint) {k : Fin 4} {f : FpField} (hf : telemetryFields[k.val]? = some f)
    (i : Fin 4) : s.telemetry[16 * j.val + 4 * k.val + i.val]? = some (byteOf (s.readField j f) i) := by
  have hj : joints[j.val]? = some j := by fin_cases j <;> rfl
  calc s.telemetry[16 * j.val + 4 * k.val + i.val]?
      = (joints.flatMap s.jointTelemetry)[16 * j.val + (4 * k.val + i.val)]? := by rw [telemetry_eq, Nat.add_assoc]
    _ = (s.jointTelemetry j)[4 * k.val + i.val]? := getElem?_flatMap_block (n := 16) (fun _ => rfl) hj (by omega)
    _ = (bytesOfWord (s.readField j f))[i.val]? := getElem?_flatMap_block (n := 4) (fun _ => rfl) hf i.isLt
    _ = some (byteOf (s.readField j f) i) := getElem?_bytesOfWord _ i

/-- Settles O37: the bytes are the telemetry, and each field of the layout is a field of `telemetryFields`. -/
theorem getstateSendsTheTelemetryLayout : Obligations.GetstateSendsTheTelemetryLayout := by
  refine fun s hS => ⟨rfl, s.telemetry, runCommand_guarded s _ _ hS, length_telemetry s, fun j k i => ?_⟩
  match k with
  | 0 => exact getElem?_telemetry s j (k := 0) (f := .setpoint) rfl i
  | 1 => exact getElem?_telemetry s j (k := 1) (f := .angle) rfl i
  | 2 => exact getElem?_telemetry s j (k := 2) (f := .velocity) rfl i
  | 3 => exact getElem?_telemetry s j (k := 3) (f := .voltage_cmd) rfl i

end Sys2Proof.Machine
end

section
/-! SUPPORT. The pulse width of a finite command (R205, R207): arithmetic on finite operands gives no NaN, so arming a
channel drives it to one value, which its constants fix. -/

namespace Sys2Proof

theorem Fp.isNaN_ofSignMag {s : Bool} {m : Nat} (h : m ≤ 0x7F800000) : Fp.isNaN (Fp.ofSignMag s m) = false := by
  rw [← Bool.not_eq_true, Fp.isNaN_iff, Fp.expo_ofSignMag (by omega), Fp.frac_ofSignMag (by omega)]
  omega

/-- Rounding gives no NaN: what overflows is an infinity (R11). -/
theorem Fp.isNaN_roundUnits (neg : Bool) (num den : Nat) : Fp.isNaN (Fp.roundUnits neg num den) = false :=
  Fp.isNaN_ofSignMag (Nat.min_le_right _ _)

theorem Fp.isNaN_mul_of_isFinite {a b : Fp} (ha : Fp.isFinite a = true) (hb : Fp.isFinite b = true) :
    Fp.isNaN (Fp.mul a b) = false := by
  rw [Fp.mul_of_isFinite ha hb]
  exact Fp.isNaN_roundUnits _ _ _

/-- A finite operand makes no NaN of a sum whose other operand is none. -/
theorem Fp.isNaN_add_of_isFinite {a b : Fp} (ha : Fp.isFinite a = true) (hb : Fp.isNaN b = false) :
    Fp.isNaN (Fp.add a b) = false := by
  have hna := Fp.isNaN_eq_false_of_isFinite ha
  have hia := Fp.isInf_eq_false_of_isFinite ha
  simp only [Fp.add, hna, hia, hb, Bool.or_self, Bool.false_eq_true, if_false]
  split_ifs
  · exact hb
  · exact Fp.isNaN_ofSignMag (Nat.zero_le _)
  · exact Fp.isNaN_roundUnits _ _ _

end Sys2Proof

namespace Sys2Proof.Machine

/-- For every finite command the pulse width of R207 is no NaN (R8). -/
theorem isNaN_pulseOf_of_isFinite (c : Configuration) (j : Joint) {cmd : Fp} (h : Fp.isFinite cmd = true) :
    Fp.isNaN (pulseOf (c.act.get j) cmd) = false := by
  obtain ⟨_, _, _, _, hjoints⟩ := (parameters_valid_iff c.toParameters).1 c.ok
  have hvalid := (hjoints j).2
  simp only [ActuatorConstants.valid, Bool.and_eq_true] at hvalid
  obtain ⟨⟨⟨⟨⟨⟨⟨⟨hoffset, _⟩, _⟩, _⟩, hscale⟩, _⟩, _⟩, _⟩, _⟩ := hvalid
  exact Fp.isNaN_add_of_isFinite hoffset (Fp.isNaN_mul_of_isFinite h hscale)

/-- The pulse width of a channel that is armed and driven by a command of zero (R205). -/
def neutralPulse (a : ActuatorConstants) : Fp := clamp (pulseOf a Fp.zero) a.pulse_min a.pulse_max

/-- `ActEnable` arms one channel with the pulse width of a command of zero; nothing else changes (R205). -/
theorem emit_actEnable_eq (s : State) (j : Joint) : s.emit (.actEnable j) = { s with
    events := s.events ++ [.actEnable j], ACT := s.ACT.set j ⟨true, neutralPulse (s.C.act.get j)⟩ } := by
  have hn := isNaN_pulseOf_of_isFinite s.C j (cmd := Fp.zero) rfl
  simp [State.emit, State.react, State.setCmd, State.clampFree, hn, neutralPulse, State.setAct]

/-! What ENABLE and DISABLE leave, at one instant (R171, R172) -/

/-- The three channels armed and driven by a command of zero. -/
def armedChannels (c : Parameters) : PerJoint ActuatorState :=
  ⟨⟨true, neutralPulse c.act.j0⟩, ⟨true, neutralPulse c.act.j1⟩, ⟨true, neutralPulse c.act.j2⟩⟩

theorem enableAtOnce_eq (s : State) : enableAtOnce s = { s with
    MEN := true
    P := .same PidState.atReset
    ACT := armedChannels s.C.toParameters
    events := s.events ++ joints.map .actEnable } := by
  simp only [enableAtOnce, joints, List.map_cons, List.map_nil, State.emitAll, List.foldl_cons, List.foldl_nil,
    emit_actEnable_eq, List.append_assoc]
  rfl

theorem disableAtOnce_eq (s : State) : disableAtOnce s = { s with
    MEN := false
    J := ⟨{ s.J.j0 with voltage_cmd := Fp.zero }, { s.J.j1 with voltage_cmd := Fp.zero },
      { s.J.j2 with voltage_cmd := Fp.zero }⟩
    ACT := .same ⟨false, Fp.zero⟩
    GRIP := .opened
    events := s.events ++ (joints.map .actDisable ++ [.gripOpen]) } := by
  have hevents : (disableAtOnce s).events = s.events ++ (joints.map .actDisable ++ [.gripOpen]) := by
    simp [disableAtOnce, joints]
  rw [← hevents]
  rfl

end Sys2Proof.Machine
end

section
/-! SUPPORT. A host command repeated at once (R60): what one execution leaves is a fixed point of the next, but for
the output streams. -/

namespace Sys2Proof.Machine

variable {s t t' : State}

/-- Two states agree on the block's own state and on the counter of drawn values; their output streams, their inputs
and their pending accesses may differ. -/
structure SameBlock (s t : State) : Prop where
  J : t.J = s.J
  P : t.P = s.P
  MEN : t.MEN = s.MEN
  GRIP : t.GRIP = s.GRIP
  DPH : t.DPH = s.DPH
  C : t.C = s.C
  ACT : t.ACT = s.ACT
  draws : t.draws = s.draws

theorem enableAtOnce_repeat (s : State) : SameBlock (enableAtOnce s) (enableAtOnce (enableAtOnce s)) := by
  simp only [enableAtOnce_eq]
  exact ⟨rfl, rfl, rfl, rfl, rfl, rfl, rfl, rfl⟩

theorem disableAtOnce_repeat (s : State) : SameBlock (disableAtOnce s) (disableAtOnce (disableAtOnce s)) := by
  simp only [disableAtOnce_eq]
  exact ⟨rfl, rfl, rfl, rfl, rfl, rfl, rfl, rfl⟩

theorem getstateAtOnce_sameBlock (s : State) : SameBlock s (getstateAtOnce s) :=
  ⟨rfl, rfl, rfl, rfl, rfl, rfl, rfl, rfl⟩

theorem gripAtOnce_repeat (g : Grip) {e : Event} (he : ∀ u : State, u.react e = u) (s : State) :
    SameBlock (gripAtOnce g e s) (gripAtOnce g e (gripAtOnce g e s)) := by
  simp only [gripAtOnce, State.emit, he]
  exact ⟨rfl, rfl, rfl, rfl, rfl, rfl, rfl, rfl⟩

/-- The values of a SETPOINT without a NaN are clamped and draw no free value (R176). -/
theorem clampSetpoints_state_of_not_nan {a b c : Fp} (h : ∀ j, Fp.isNaN (setpointOperand a b c j) = false)
    (s : State) : (clampSetpoints a b c s).2 = s := by
  have ha : Fp.isNaN a = false := h 0
  have hb : Fp.isNaN b = false := h 1
  have hc : Fp.isNaN c = false := h 2
  simp only [clampSetpoints, clampSetpoint, clampFree_of_not_nan _ ha, clampFree_of_not_nan _ hb,
    clampFree_of_not_nan _ hc]

theorem storeSetpoints_repeat (v : PerJoint Fp) (s : State) :
    SameBlock (storeSetpoints v s) (storeSetpoints v (storeSetpoints v s)) :=
  ⟨rfl, rfl, rfl, rfl, rfl, rfl, rfl, rfl⟩

/-- A guarded command whose effect at one instant is repeated without a change, executed twice. -/
theorem runCommand_repeat {f : State → State} {l : List Access} (hf : SameBlock (f s) (f (f s)))
    (hS : s.C.SNAP = .guarded) (h : runCommand f l s = .next t) (hC : t.C = s.C) (h' : runCommand f l t = .next t') :
    SameBlock t t' := by
  rw [runCommand_guarded s f l hS] at h
  cases h
  rw [runCommand_guarded _ f l (hC ▸ hS)] at h'
  cases h'
  exact hf

/-- A guarded SETPOINT without a NaN executed twice stores the same clamped values twice. -/
theorem exec_setpoint_repeat {a b c : Fp} (h : ∀ j, Fp.isNaN (setpointOperand a b c j) = false)
    (hS : s.C.SNAP = .guarded) (ht : exec (.setpoint a b c) s = .next t) (ht' : exec (.setpoint a b c) t = .next t') :
    SameBlock t t' := by
  have hC : t.C = s.C := (exec_keepsPorts ht).C
  have hv : (clampSetpoints a b c t).1 = (clampSetpoints a b c s).1 :=
    PerJoint.ext_get fun j => by rw [clampSetpoints_get (h j), clampSetpoints_get (h j), hC]
  rw [exec_setpoint_guarded a b c hS, clampSetpoints_state_of_not_nan h] at ht
  rw [exec_setpoint_guarded a b c (hC ▸ hS), clampSetpoints_state_of_not_nan h, hv] at ht'
  cases ht
  cases ht'
  exact storeSetpoints_repeat _ s

/-- A guarded GETSTATE writes no state of the block (R173). -/
theorem exec_getstate_sameBlock (hS : s.C.SNAP = .guarded) (h : exec .getstate s = .next t) : SameBlock s t := by
  obtain rfl : getstateAtOnce s = t := Host.Outcome.next.inj ((runCommand_guarded s _ _ hS).symm.trans h)
  exact getstateAtOnce_sameBlock s

/-- Every guarded command but a SETPOINT with a NaN (U1), executed twice (R60). -/
theorem exec_repeat {i : Instr} (hS : s.C.SNAP = .guarded)
    (hi : i = .enable ∨ i = .disable ∨ i = .getstate ∨ i = .gripopen ∨ i = .gripclose ∨
      (∃ sp0 sp1 sp2, i = .setpoint sp0 sp1 sp2 ∧ ∀ j, Fp.isNaN (setpointOperand sp0 sp1 sp2 j) = false))
    (ht : exec i s = .next t) (ht' : exec i t = .next t') : SameBlock t t' := by
  have hC : t.C = s.C := (exec_keepsPorts ht).C
  rcases hi with rfl | rfl | rfl | rfl | rfl | ⟨sp0, sp1, sp2, rfl, hnan⟩
  · exact runCommand_repeat (enableAtOnce_repeat s) hS ht hC ht'
  · exact runCommand_repeat (disableAtOnce_repeat s) hS ht hC ht'
  · exact exec_getstate_sameBlock (hC ▸ hS) ht'
  · exact runCommand_repeat (gripAtOnce_repeat .opened (fun _ => rfl) s) hS ht hC ht'
  · exact runCommand_repeat (gripAtOnce_repeat .closed (fun _ => rfl) s) hS ht hC ht'
  · exact exec_setpoint_repeat hnan hS ht ht'

/-- Settles O41: the repeated command by `exec_repeat`, GETSTATE by itself. -/
theorem repeatedCommandsChangeNothingMore : Obligations.RepeatedCommandsChangeNothingMore := by
  intro s t t' i hS hi ht ht'
  obtain ⟨hJ, hP, hM, hG, hD, hC, hA, hn⟩ := exec_repeat hS hi ht ht'
  refine ⟨⟨hJ, hP, hM, hG, hD, hC, hA, hn⟩, ?_⟩
  rintro rfl
  obtain ⟨hJ, hP, hM, hG, hD, _, hA, _⟩ := exec_getstate_sameBlock hS ht
  exact ⟨hJ, hP, hM, hG, hD, hA⟩

end Sys2Proof.Machine
end

section
/-! SUPPORT. The commands under `unguarded` (R58, U5; log 13): each starts its accesses, and the accesses of each, in
order and uninterrupted, amount to its effect at one instant. -/

namespace Sys2Proof.Machine

variable {s t : State}

/-! The start of the accesses -/

/-- Settles O44: the five one-byte commands by `runCommand_unguarded`, SETPOINT by its clamped values. -/
theorem unguardedCommandsStartTheirAccesses : Obligations.UnguardedCommandsStartTheirAccesses := by
  refine fun s hS => ⟨runCommand_unguarded s _ _ hS, runCommand_unguarded s _ _ hS, runCommand_unguarded s _ _ hS,
    runCommand_unguarded s _ _ hS, runCommand_unguarded s _ _ hS, fun sp0 sp1 sp2 => ?_⟩
  refine ⟨(clampSetpoints sp0 sp1 sp2 s).1, (clampSetpoints sp0 sp1 sp2 s).2.draws,
    exec_setpoint_unguarded sp0 sp1 sp2 hS, fun j hj => clampSetpoints_get hj s, fun h => ?_⟩
  rw [clampSetpoints_state_of_not_nan h]

/-! What the accesses of each command amount to -/

theorem completeAll_flatMap {α : Type} (l : List α) (g : α → List Access) (s : State) :
    completeAll (l.flatMap g) s = l.foldl (fun t x => completeAll (g x) t) s :=
  List.foldl_flatMap

theorem completeAll_storeAll_map (f : FpField) (w : Joint → Fp) (s : State) :
    completeAll (joints.map fun j => storeAll j f (w j)) s = joints.foldl (fun t j => t.writeField j f (w j)) s := by
  simp only [completeAll, List.foldl_map, complete_storeAll]

theorem completeAll_emit_map (e : Joint → Event) (s : State) :
    completeAll (joints.map fun j => .emit (e j)) s = s.emitAll (joints.map e) := by
  simp only [completeAll, State.emitAll, List.foldl_map]
  rfl

/-- The three accesses that reset one controller amount to `PID.RESET` (R111). -/
theorem completeAll_reset (j : Joint) (s : State) :
    completeAll [storeAll j .ui Fp.zero, storeAll j .error_prev Fp.zero, .setFirst j] s = pidReset j s := by
  simp only [completeAll, List.foldl_cons, List.foldl_nil, complete_storeAll]
  simp [Access.complete, Access.perform, State.writeField, State.setFirst, State.setP, PidState.atReset]

theorem completeAll_enableAccesses (s : State) : completeAll enableAccesses s = enableAtOnce s := by
  simp only [enableAccesses, completeAll_append, completeAll_flatMap, completeAll_reset, completeAll_emit_map]
  rfl

theorem completeAll_disableAccesses (s : State) : completeAll disableAccesses s = disableAtOnce s := by
  simp only [disableAccesses, completeAll_append, completeAll_emit_map,
    completeAll_storeAll_map .voltage_cmd fun _ => Fp.zero]
  rfl

theorem completeAll_stores_setpoints (v : PerJoint Fp) (s : State) :
    completeAll (setpointAccesses v) s = storeSetpoints v s :=
  completeAll_storeAll_map .setpoint v.get s

/-- Accesses that send bytes, group by group, amount to sending the groups' bytes at once, if what a group sends
does not depend on what was sent before. -/
theorem completeAll_flatMap_send {α : Type} {g : α → List Access} {bytes : State → α → List Byte}
    (hg : ∀ x t, completeAll (g x) t = t.txBytes (bytes t x)) (htx : ∀ x t bs, bytes (t.txBytes bs) x = bytes t x)
    (l : List α) (s : State) : completeAll (l.flatMap g) s = s.txBytes (l.flatMap (bytes s)) := by
  induction l generalizing s with
  | nil => simp [completeAll, State.txBytes]
  | cons x l ih =>
    have hbytes : bytes (s.txBytes (bytes s x)) = bytes s := funext fun y => htx y s _
    rw [List.flatMap_cons, completeAll_append, hg, ih, hbytes, List.flatMap_cons]
    simp [State.txBytes]

theorem readField_txBytes (s : State) (bs : List Byte) (j : Joint) (f : FpField) :
    (s.txBytes bs).readField j f = s.readField j f := by
  cases f <;> rfl

theorem completeAll_send_field (j : Joint) (f : FpField) (s : State) :
    completeAll (allBytes.map fun i => .send j f i) s = s.txBytes (bytesOfWord (s.readField j f)) := by
  rw [List.map_eq_flatMap]
  exact completeAll_flatMap_send (bytes := fun t i => [byteOf (t.readField j f) i]) (fun _ _ => rfl)
    (fun _ _ _ => by rw [readField_txBytes]) allBytes s

/-- The 48 accesses of GETSTATE amount to sending the telemetry (R51, R173). -/
theorem completeAll_getstateAccesses (s : State) : completeAll getstateAccesses s = getstateAtOnce s := by
  refine completeAll_flatMap_send
    (bytes := fun t j => telemetryFields.flatMap fun f => bytesOfWord (t.readField j f)) (fun j t => ?_)
    (fun _ _ _ => by simp only [readField_txBytes]) joints s
  exact completeAll_flatMap_send (bytes := fun u f => bytesOfWord (u.readField j f)) (completeAll_send_field j)
    (fun _ _ _ => by rw [readField_txBytes]) telemetryFields t

theorem completeAll_gripAccesses (g : Grip) (e : Event) (s : State) :
    completeAll [.setGrip g, .emit e] s = gripAtOnce g e s := rfl

/-! The uninterrupted run -/

/-- Accesses that nothing interrupts, started with none pending and no other input, end in their whole effect. -/
theorem run_startBurst {l : List Access} {picks : List Nat} (hu : s.uop = none) (hb : s.burst = [])
    (hi : s.inputs = []) (hpos : ∀ a ∈ l, 0 < a.size) (hp : picks.length = burstSize (s.startBurst l).burst) :
    core.run picks.length { s.startBurst l with inputs := picks.map Input.foreground } =
      .next (completeAll l s) := by
  have hl : (s.startBurst l).burst = l := by simp [hb]
  have hs : s.withQueues [] [] = s := by simp [State.withQueues, ← hb, ← hi]
  have hrun := run_foreground (picks := picks) (rest := [])
    (s := s.withQueues (s.startBurst l).burst (picks.map Input.foreground)) hu (List.append_nil _).symm
    (by rw [withQueues_burst, hl]; exact hpos) hp
  rw [completeAll_withQueues, withQueues_withQueues, withQueues_burst, hl, ← completeAll_withQueues, hs] at hrun
  rw [← hrun, State.startBurst, hb]
  rfl

/-! A command under either policy -/

section
variable {c : Configuration} {picks : List Nat} {g : State} (hS : s.C.SNAP = .unguarded) (hc : c.SNAP = .guarded)
  (hu : s.uop = none) (hb : s.burst = []) (hi : s.inputs = [])

include hS hc hu hb hi in
/-- A command whose effect at one instant its accesses amount to, and does not depend on the snapshot policy. -/
theorem runCommand_uninterrupted {f : State → State} {l : List Access} (hpos : ∀ a ∈ l, 0 < a.size)
    (hl : completeAll l s = f s) (hf : { f { s with C := c } with C := s.C } = f s)
    (ht : runCommand f l s = .next t) (hg : runCommand f l { s with C := c } = .next g)
    (hp : picks.length = burstSize t.burst) :
    core.run picks.length { t with inputs := picks.map Input.foreground } = .next { g with C := s.C } := by
  rw [runCommand_unguarded s f l hS] at ht
  rw [runCommand_guarded { s with C := c } f l hc] at hg
  cases ht
  cases hg
  rw [run_startBurst hu hb hi hpos hp, hl, hf]

variable (hagree : c.toParameters = { s.C.toParameters with SNAP := .guarded })

include hagree in
/-- ENABLE reads the constants of the channels alone (R171, R205). -/
theorem enableAtOnce_withC : { enableAtOnce { s with C := c } with C := s.C } = enableAtOnce s := by
  simp only [enableAtOnce_eq, hagree]
  rfl

theorem disableAtOnce_withC : { disableAtOnce { s with C := c } with C := s.C } = disableAtOnce s := rfl

include hS hc hu hb hi hagree in
theorem setpoint_uninterrupted {sp0 sp1 sp2 : Fp} (ht : exec (.setpoint sp0 sp1 sp2) s = .next t)
    (hg : exec (.setpoint sp0 sp1 sp2) { s with C := c } = .next g) (hp : picks.length = burstSize t.burst) :
    core.run picks.length { t with inputs := picks.map Input.foreground } = .next { g with C := s.C } := by
  obtain ⟨hv, hn⟩ := clampSetpoints_congr (s := s) (t := { s with C := c }) sp0 sp1 sp2 (by rw [hagree])
    (by rw [hagree]) rfl
  rw [exec_setpoint_unguarded sp0 sp1 sp2 hS] at ht
  rw [exec_setpoint_guarded (s := { s with C := c }) sp0 sp1 sp2 hc, hv, hn] at hg
  cases ht
  cases hg
  have hrun := run_startBurst (s := { s with draws := (clampSetpoints sp0 sp1 sp2 s).2.draws }) hu hb hi
    (by simp [setpointAccesses, joints, storeAll, allBytes, Access.size]) hp
  exact hrun.trans (by rw [completeAll_stores_setpoints]; rfl)

end

/-- What `clampFree` answers and draws depends on the counter of drawn values alone. -/
theorem clampFree_congr (x lo hi : Fp) (hd : t.draws = s.draws) :
    (t.clampFree x lo hi).1 = (s.clampFree x lo hi).1 ∧
      (t.clampFree x lo hi).2.draws = (s.clampFree x lo hi).2.draws := by
  cases hx : Fp.isNaN x
  · simp only [clampFree_of_not_nan _ hx, hd, and_self]
  · simp only [clampFree_of_nan _ hx, hd, State.drawn_draws, and_self]

/-- `PID.UPDATE` does not read the snapshot policy (R113). -/
theorem pidUpdate_withC {c : Configuration} (hagree : c.toParameters = { s.C.toParameters with SNAP := .guarded })
    (j : Joint) (e ff : Fp) :
    { (pidUpdate j e ff { s with C := c }).2 with C := s.C } = (pidUpdate j e ff s).2 := by
  have hsum : pidUnsat { s with C := c } j e ff = pidUnsat s j e ff := by
    simp only [pidUnsat, pidUp, pidUiNext, pidUd, hagree]
    rfl
  have hui : pidUiStored { s with C := c } j e ff = pidUiStored s j e ff := by
    simp only [pidUiStored, hsum, pidUiNext, hagree]
    rfl
  obtain ⟨hu, hn⟩ := clampFree_congr (s := s) (t := { s with C := c }) (pidUnsat s j e ff) (s.C.u_min.get j)
    (s.C.u_max.get j) rfl
  simp only [pidUpdate_eq, hsum, hui, hagree, hu, hn]

theorem velSample_withC {c : Configuration} (hagree : c.toParameters = { s.C.toParameters with SNAP := .guarded })
    (j : Joint) (a : Fp) : { velSample j a { s with C := c } with C := s.C } = velSample j a s := by
  simp only [velSample_eq, velocityOf, hagree]

/-- A micro-operation starts no accesses: it is complete at once under either policy. -/
theorem run_no_accesses {picks : List Nat} (hb : t.burst = []) (hi : t.inputs = [])
    (hp : picks.length = burstSize t.burst) :
    core.run picks.length { t with inputs := picks.map Input.foreground } = .next t := by
  obtain rfl : picks = [] := List.length_eq_zero_iff.1 (hp.trans (by rw [hb]; rfl))
  rw [List.map_nil, ← hi]
  rfl

/-- Settles O45: a host command by what its accesses amount to, a micro-operation because it has none. -/
theorem uninterruptedCommandEqualsTheGuardedOne : Obligations.UninterruptedCommandEqualsTheGuardedOne := by
  intro s t g c i picks hS hagree hu hb hi ht hg hp
  have hc : c.SNAP = .guarded := by rw [hagree]
  cases i with
  | enable =>
    exact runCommand_uninterrupted hS hc hu hb hi (by decide) (completeAll_enableAccesses s)
      (enableAtOnce_withC hagree) ht hg hp
  | disable =>
    exact runCommand_uninterrupted hS hc hu hb hi (by decide) (completeAll_disableAccesses s)
      disableAtOnce_withC ht hg hp
  | getstate =>
    exact runCommand_uninterrupted hS hc hu hb hi (by decide) (completeAll_getstateAccesses s) rfl ht hg hp
  | setpoint a b c => exact setpoint_uninterrupted hS hc hu hb hi hagree ht hg hp
  | gripopen =>
    exact runCommand_uninterrupted hS hc hu hb hi (by decide) (completeAll_gripAccesses _ _ s) rfl ht hg hp
  | gripclose =>
    exact runCommand_uninterrupted hS hc hu hb hi (by decide) (completeAll_gripAccesses _ _ s) rfl ht hg hp
  | velSample j a =>
    cases ht
    cases hg
    exact (run_no_accesses (t := velSample j a s) hb hi hp).trans
      (congrArg Host.Outcome.next (velSample_withC hagree j a).symm)
  | pidUpdate j e ff =>
    cases ht
    cases hg
    exact (run_no_accesses (t := (pidUpdate j e ff s).2) (by simpa using hb) (by simpa using hi) hp).trans
      (congrArg Host.Outcome.next (pidUpdate_withC hagree j e ff).symm)
  | pidReset j =>
    cases ht
    cases hg
    exact run_no_accesses (t := pidReset j s) hb hi hp

end Sys2Proof.Machine
end

section
/-! SUPPORT. The foreground context between the other inputs (R58, R64, R180): what one of its runs does to the first
pending access, and a TICK that falls between two accesses of a store (U5). -/

namespace Sys2Proof.Machine

variable {s : State}

/-! One run of the foreground context -/

/-- With no access pending the foreground context waits (R180; log 19). -/
theorem foreground_of_no_access (hb : s.burst = []) (pick : Nat) : foreground pick s = s := by
  rcases foreground_cases s pick with ⟨_, h⟩ | ⟨a, rest, h, _⟩
  · exact h
  · simp [hb] at h

/-- With some pending it makes the first. -/
theorem foreground_of_access {a : Access} {more : List Access} (hb : s.burst = a :: more) (pick : Nat) :
    foreground pick s = { (a.perform pick s).1 with burst := (a.perform pick s).2 ++ more } := by
  rcases foreground_cases s pick with ⟨h, _⟩ | ⟨a', rest, h, e⟩ <;> rw [hb] at h <;> cases h
  exact e

/-- A byte that arrives while accesses are pending waits, and the next access is made (R64; log 13). -/
theorem step_rx_waits {b : Byte} {rest : List Input} {a : Access} {more : List Access} (hu : s.uop = none)
    (hi : s.inputs = .rx b :: rest) (hb : s.burst = a :: more) : step s = .next (foreground 0 s) := by
  simp only [step_of_no_uop hu, stepInputs, hi, hb]

/-- What is left of the pending accesses falls by one where the first has anything left to do. -/
theorem burstSize_foreground {a : Access} {more : List Access} (hb : s.burst = a :: more) (ha : 0 < a.size)
    (pick : Nat) : burstSize (foreground pick s).burst + 1 = burstSize s.burst := by
  have hsize := perform_size s pick a
  have hs : burstSize s.burst = a.size + burstSize more := by simp [hb, burstSize]
  rw [foreground_of_access hb, burstSize_append]
  omega

/-- Settles O47: the three clauses are the two equations of `foreground` and the byte that waits. -/
theorem foregroundWaitsOrFinishesFirst : Obligations.ForegroundWaitsOrFinishesFirst := by
  refine ⟨fun s k rest hu hi hb => ?_, fun s k rest a more hu hi hb => ?_, fun s b rest a more hu hi hb => ?_⟩
  · rw [step_foreground hu hi, foreground_of_no_access (s := { s with inputs := rest }) hb]
  · have hsize := perform_size { s with inputs := rest } k a
    rcases h : a.perform k { s with inputs := rest } with ⟨t, left⟩
    rw [h] at hsize
    refine ⟨t, left, rfl, ?_, hsize⟩
    rw [step_foreground hu hi, foreground_of_access (s := { s with inputs := rest }) hb, h]
  · refine ⟨foreground 0 s, step_rx_waits hu hi hb, rfl, ?_, ?_, ?_, fun ha => burstSize_foreground hb ha 0⟩
    · exact step_foreground (s := { s with inputs := .foreground 0 :: s.inputs }) hu rfl
    · rw [foreground_of_access hb, perform_frame]
    · rw [foreground_of_access hb]
      exact perform_DPH s 0 a

/-! A TICK between two bytes of a store -/

theorem step_tick {a : PerJoint Fp} {rest : List Input} (hu : s.uop = none) (hi : s.inputs = .tick a :: rest) :
    step s = .next (tick a { s with inputs := rest }) := by
  simp only [step_of_no_uop hu, stepInputs, hi]

/-- One joint's part of a TICK leaves the controller of every other joint alone (R27). -/
theorem tickJoint_P_ne (s : State) {i j : Joint} (h : i ≠ j) (a : Fp) : (tickJoint i a s).P.get j = s.P.get j := by
  unfold tickJoint
  simp only
  split
  · rw [servoJoint_frame]
    simp [velSample, h]
  · simp [velSample]

/-- With motors enabled the error a joint's controller keeps is its setpoint minus the angle just sampled (R153). -/
theorem tickJoint_error_prev (hM : s.MEN = true) (j : Joint) (a : Fp) :
    ((tickJoint j a s).P.get j).error_prev = fsub (s.J.get j).setpoint a := by
  have hM' : (velSample j a (s.emit (.encRead j))).MEN = true := by simp [velSample, hM]
  simp only [tickJoint, hM', if_true]
  rw [servoJoint_frame]
  simp [jointError, velSample]

theorem tick_error_prev (hM : s.MEN = true) (a : PerJoint Fp) (j : Joint) :
    ((tick a s).P.get j).error_prev = fsub (s.J.get j).setpoint (a.get j) := by
  match j with
  | 0 =>
    rw [tick, tickJoint_P_ne _ (by decide), tickJoint_P_ne _ (by decide), tickJoint_error_prev hM]
    rfl
  | 1 =>
    rw [tick, tickJoint_P_ne _ (by decide), tickJoint_error_prev (by simpa using hM), tickJoint_setpoint]
    rfl
  | 2 =>
    rw [tick, tickJoint_error_prev (by simpa using hM), tickJoint_setpoint, tickJoint_setpoint]
    rfl

theorem perform_storeAll (k : Fin 4) (j : Joint) (f : FpField) (w : Fp) (s : State) :
    (storeAll j f w).perform k.val s = (s.storeByte j f k w, [.store j f w (allBytes.erase k)]) := by
  fin_cases k <;> rfl

/-- A TICK that falls after byte `k` of a new setpoint has been stored computes with a setpoint that has this byte new
and the other three old, whatever the state (R58, U5). -/
theorem run_torn_setpoint {j : Joint} {w : Fp} {more : List Access} {k : Fin 4} {a : PerJoint Fp}
    (hu : s.uop = none) (hM : s.MEN = true) (hb : s.burst = storeAll j .setpoint w :: more)
    (hi : s.inputs = [.foreground k.val, .tick a]) :
    ∃ u, core.run 2 s = .next u ∧ (u.J.get j).setpoint = putByte (s.J.get j).setpoint k w ∧
      (u.P.get j).error_prev = fsub (putByte (s.J.get j).setpoint k w) (a.get j) := by
  have hstored := step_foreground hu hi
  rw [foreground_of_access (s := { s with inputs := [.tick a] }) hb, perform_storeAll] at hstored
  have hticked := step_tick (a := a) (rest := [])
    (s := { ({ s with inputs := [.tick a] } : State).storeByte j .setpoint k w with
      burst := [.store j .setpoint w (allBytes.erase k)] ++ more }) (by rw [storeByte_frame]; exact hu)
    (by rw [storeByte_frame])
  refine ⟨_, (run_succ hstored 1).trans (run_succ hticked 0), ?_, ?_⟩
  · rw [tick_setpoint]
    simp [State.storeByte, State.writeField, State.readField]
  · rw [tick_error_prev (by rw [storeByte_frame]; exact hM)]
    simp [State.storeByte, State.writeField, State.readField]

/-- Right after an unguarded SETPOINT has started, a TICK that falls after the first stored byte finds byte `k` of the
clamped value in joint 0, and the other three bytes of the old setpoint (R58, U5). -/
theorem run_setpoint_then_torn_tick {t : State} {sp0 sp1 sp2 : Fp} (hS : s.C.SNAP = .unguarded) (hu : s.uop = none)
    (hb : s.burst = []) (hM : s.MEN = true) (hn : Fp.isNaN sp0 = false)
    (ht : exec (.setpoint sp0 sp1 sp2) s = .next t) (k : Fin 4) (a : PerJoint Fp) :
    let torn := putByte (s.J.get 0).setpoint k (clamp sp0 (s.C.min_angle.get 0) (s.C.max_angle.get 0))
    ∃ u, core.run 2 { t with inputs := [.foreground k.val, .tick a] } = .next u ∧
      (u.J.get 0).setpoint = torn ∧ (u.P.get 0).error_prev = fsub torn (a.get 0) := by
  have hv := clampSetpoints_get (a := sp0) (b := sp1) (c := sp2) (j := 0) hn s
  rw [exec_setpoint_unguarded sp0 sp1 sp2 hS, hb, List.nil_append] at ht
  cases ht
  intro torn
  have hw : torn = putByte (s.J.get 0).setpoint k ((clampSetpoints sp0 sp1 sp2 s).1.get 0) := by rw [hv]; rfl
  rw [hw]
  exact run_torn_setpoint hu hM rfl rfl

/-! The torn setpoint -/

/-- The reset configuration under `SNAP = unguarded`, in which each limit of joint 0 has the magnitude 1.5. -/
def unguardedParameters : Parameters := { Parameters.atReset with SNAP := .unguarded }

theorem unguardedParameters_valid : unguardedParameters.valid = true := by decide

/-- Motors enabled, and joint 0 at the setpoint 1.0 = 0x3F800000. -/
def stateBeforeTear : State :=
  { State.powerOn ⟨unguardedParameters, unguardedParameters_valid⟩ .opened with MEN := true }.writeField 0 .setpoint
    0x3F800000#32

/-- Settles O46: byte 2 of the new setpoint 0x3EFF0000, below 0.5, makes 0x3FFF0000 of the old one, above 1.9. -/
theorem unguardedTickCanReadATornSetpoint : Obligations.UnguardedTickCanReadATornSetpoint := by
  have hclamp : clamp 0x3EFF0000#32 (stateBeforeTear.C.min_angle.get 0) (stateBeforeTear.C.max_angle.get 0) =
      0x3EFF0000#32 := by decide
  have htorn : putByte (stateBeforeTear.J.get 0).setpoint 2 0x3EFF0000#32 = 0x3FFF0000#32 := by decide
  have hrange : SetpointInRange stateBeforeTear 0 := ⟨by decide, by decide⟩
  have habove : fgt 0x3FFF0000#32 (stateBeforeTear.C.max_angle.get 0) = true := by decide
  obtain ⟨t, ht⟩ := exec_answers_next (.setpoint 0x3EFF0000#32 0#32 0#32) stateBeforeTear
  have hrun := run_setpoint_then_torn_tick rfl rfl rfl rfl (by decide) ht 2 ⟨0#32, 0#32, 0#32⟩
  rw [hclamp, htorn] at hrun
  exact ⟨stateBeforeTear, t, 0x3F800000#32, 0x3EFF0000#32, 0x3FFF0000#32, 0#32, rfl, rfl, rfl, rfl, hrange, rfl,
    hclamp, ht, by decide, by decide, by decide, habove, hrun⟩

end Sys2Proof.Machine
end

section
/-! SUPPORT. The decoder as the inverse of the encoder (R81 to R86, R91, R92): how long the command a byte begins is,
what decodes at all, and that reading a command never looks past its end. -/

namespace Sys2Proof

/-- Bytes received after the payload of a SETPOINT are left for the next command (R84). -/
theorem decodeSetpoint_append {bs rest : List Byte} {i : Instr} (h : decodeSetpoint bs = .instr i rest)
    (more : List Byte) : decodeSetpoint (bs ++ more) = .instr i (rest ++ more) := by
  unfold decodeSetpoint at h
  split at h <;> cases h
  rfl

/-- A command read from some bytes is read from them whatever follows (R84). -/
theorem decode_append {bs rest : List Byte} {i : Instr} (h : decode bs = .instr i rest) (more : List Byte) :
    decode (bs ++ more) = .instr i (rest ++ more) := by
  cases bs with
  | nil => cases h
  | cons b bs =>
    rcases decode_cases b bs with ⟨rfl, e⟩ | ⟨rfl, e⟩ | ⟨rfl, e⟩ | ⟨rfl, e⟩ | ⟨rfl, e⟩ | ⟨rfl, e⟩ | ⟨_, e⟩ <;>
      rw [e] at h
    case inr.inr.inr.inl => exact decodeSetpoint_append h more
    all_goals cases h
    all_goals rfl

/-- Settles O2: 0x04 by what the payload decoder answers, every other byte by its row. -/
theorem opcodeByteFixesCommandLength : Obligations.OpcodeByteFixesCommandLength := by
  refine fun b bs => ⟨fun hb => ?_, ?_⟩
  · rcases decode_cases b bs with ⟨_, e⟩ | ⟨_, e⟩ | ⟨_, e⟩ | ⟨h, _⟩ | ⟨_, e⟩ | ⟨_, e⟩ | ⟨_, e⟩
    case inr.inr.inr.inl => exact absurd h hb
    case inr.inr.inr.inr.inr.inr => exact .inr e
    all_goals exact .inl ⟨_, e⟩
  · rintro rfl
    have e : decode (0x04#8 :: bs) = decodeSetpoint bs := rfl
    rw [e]
    rcases decodeSetpoint_cases bs with ⟨sp0, sp1, sp2, h, hl⟩ | ⟨h, hl⟩
    · exact ⟨fun hl' => absurd hl (by omega), fun _ => ⟨sp0, sp1, sp2, h⟩⟩
    · exact ⟨fun _ => h, fun hl' => absurd hl (by omega)⟩

/-! What decodes is well formed -/

theorem hostBytesWellFormed_of_decode {bytes : List Byte} {i : Instr} (h : decode bytes = .instr i []) :
    hostBytesWellFormed bytes = true := by
  cases bytes with
  | nil => cases h
  | cons b bs =>
    rcases decode_cases b bs with ⟨rfl, e⟩ | ⟨rfl, e⟩ | ⟨rfl, e⟩ | ⟨rfl, e⟩ | ⟨rfl, e⟩ | ⟨rfl, e⟩ | ⟨_, e⟩ <;>
      rw [e] at h
    case inr.inr.inr.inl =>
      rcases decodeSetpoint_cases bs with ⟨_, _, _, e', hl⟩ | ⟨e', _⟩ <;> rw [e'] at h
      · have hdrop : bs.drop 12 = [] := (Decoded.instr.inj h).2
        have hlen : bs.length = 12 := le_antisymm (List.drop_eq_nil_iff.1 hdrop) hl
        simp [hostBytesWellFormed, commandLength, hlen]
      · cases h
    all_goals cases h
    all_goals rfl

theorem jointOfField_eq_none_iff (f : BitVec 2) : jointOfField f = none ↔ f = 3#2 := by
  revert f
  decide

/-- The select words that decode are those neither of whose fields is 3 (R91, R92). -/
theorem decodeMicro_eq_none_iff (w : BitVec 4) (A B : Fp) :
    decodeMicro w A B = none ↔ microOpWellFormed w = false := by
  cases hj : jointOfField (w.extractLsb 1 0) with
  | none =>
    have hlow := (jointOfField_eq_none_iff _).1 hj
    have hnone : decodeMicro w A B = none := by simp only [decodeMicro, hj]
    simp [hnone, microOpWellFormed, hlow]
  | some j =>
    have hlow : w.extractLsb 1 0 ≠ 3#2 := fun h => by simp [(jointOfField_eq_none_iff _).2 h] at hj
    have hfields : ∀ f : BitVec 2, f = 0#2 ∨ f = 1#2 ∨ f = 2#2 ∨ f = 3#2 := by decide
    rcases hfields (w.extractLsb 3 2) with h | h | h | h <;> simp [decodeMicro, microOpWellFormed, hj, hlow, h]

/-- The ill-formed select words written out (R92). -/
theorem microOpWellFormed_eq_false_iff (w : BitVec 4) : microOpWellFormed w = false ↔
    w ∈ [0b0011#4, 0b0111#4, 0b1011#4, 0b1100#4, 0b1101#4, 0b1110#4, 0b1111#4] := by
  revert w
  decide

/-- The decoder reads an instruction from well-formed codes alone. -/
theorem Code.wellFormed_of_decodeCode {c : Code} {i : Instr} (h : decodeCode c = some i) : c.wellFormed = true := by
  cases c with
  | host bytes =>
    simp only [decodeCode] at h
    split at h <;> cases h
    exact hostBytesWellFormed_of_decode ‹_›
  | micro w A B =>
    have hsome : decodeMicro w A B ≠ none := by rw [show decodeMicro w A B = some i from h]; exact nofun
    simpa [Code.wellFormed] using mt (decodeMicro_eq_none_iff w A B).2 hsome

end Sys2Proof

namespace Sys2Proof.Machine

/-! The decoder inverts the encoder -/

/-- The bytes of a host command decode to it, none being left over (R81 to R86). -/
theorem decode_of_encode {i : Instr} {bytes : List Byte} (h : encode i = .host bytes) :
    decode bytes = .instr i [] := by
  rcases encode_host_cases h with ⟨b, rfl, hdec⟩ | ⟨sp0, sp1, sp2, init, b, rfl, rfl, _, hdec⟩ <;> exact hdec

theorem decodeCode_encode (i : Instr) : decodeCode (encode i) = some i := by
  cases h : encode i with
  | host bytes => simp only [decodeCode, decode_of_encode h]
  | micro w A B => exact decodeMicro_of_encode h

/-- Settles O1: the decoder inverts the encoder, reads well-formed codes alone, and leaves what follows. -/
theorem decodingAnEncodedInstructionGivesItBack : Obligations.DecodingAnEncodedInstructionGivesItBack :=
  fun i _ => ⟨Code.wellFormed_of_decodeCode (decodeCode_encode i), decodeCode_encode i,
    fun _ rest h => decode_append (decode_of_encode h) rest⟩

/-- Settles O4: each word is the encoding of its row, GETSTATE's with a byte after it. -/
theorem writtenWordsDecodeToTheirRows : Obligations.WrittenWordsDecodeToTheirRows :=
  ⟨decode_of_encode rfl, decode_append (decode_of_encode (i := .getstate) rfl) [0x02#8],
    decode_of_encode (by decide), decodeMicro_of_encode (by decide), decodeMicro_of_encode (by decide),
    decodeMicro_of_encode (by decide)⟩

/-- Settles O5: the port refuses what does not decode, and every instruction answers a next state. -/
theorem reservedSelectWordsAreRefused : Obligations.ReservedSelectWordsAreRefused := by
  intro s w A B hu
  rw [← microOpWellFormed_eq_false_iff, ← decodeMicro_eq_none_iff w A B, step_of_uop hu]
  refine ⟨fun hnone => microStep_reserved hnone _, fun hsome => ?_⟩
  obtain ⟨i, hi⟩ := Option.ne_none_iff_exists'.1 hsome
  rw [microStep_decoded hi]
  exact exec_answers_next i _

end Sys2Proof.Machine
end

section
/-! SUPPORT. `PID.UPDATE` where its sum is a number (R113 to R119). -/

namespace Sys2Proof.Machine

variable {s : State} {j : Joint} {e ff : Fp}

/-- Without anti-windup the accumulator takes its new value whether or not the sum is saturated (R115, R120). -/
theorem pidUiStored_of_none (h : s.C.AW = .none) : pidUiStored s j e ff = pidUiNext s j e := by
  simp only [pidUiStored, h]

/-- A sum that is a number is clamped, and no free value is drawn (R118). -/
theorem exec_pidUpdate_of_not_nan (h : Fp.isNaN (pidUnsat s j e ff) = false) :
    exec (.pidUpdate j e ff) s = .next { s with
      P := s.P.set j ⟨pidUiStored s j e ff, e, false⟩
      Y := clamp (pidUnsat s j e ff) (s.C.u_min.get j) (s.C.u_max.get j) } := by
  rw [exec, execPidUpdate, pidUpdate_eq, clampFree_of_not_nan s h]

/-- Settles O21: the statement writes out the terms of `pidUnsat` and the clamp. -/
theorem pidUpdateComputesTheClampedSum : Obligations.PidUpdateComputesTheClampedSum := by
  intro s j e ff hAW up ui_next ud u_unsat hn
  have hsum : pidUnsat s j e ff = u_unsat := rfl
  rw [exec_pidUpdate_of_not_nan hn, pidUiStored_of_none hAW, hsum]
  rfl

end Sys2Proof.Machine
end

section
/-! SUPPORT. Where micro-operations run (R91, R112, R147): no host command takes a sample or makes an update, ENABLE
alone resets a controller, and an access of the foreground context writes neither `previous_angle` nor `Y`. -/

namespace Sys2Proof.Machine

variable {s t : State}

/-- From `s` to `t` no joint was sampled (R147) and no controller updated: the fields of `J` that `VEL.SAMPLE` writes
and the bus `PID.UPDATE` writes are as they were. -/
structure NoSampleOrUpdate (s t : State) : Prop where
  Y : t.Y = s.Y
  angle : ∀ j, (t.J.get j).angle = (s.J.get j).angle
  velocity : ∀ j, (t.J.get j).velocity = (s.J.get j).velocity
  previous_angle : ∀ j, (t.J.get j).previous_angle = (s.J.get j).previous_angle

/-- And no controller was reset either (R112). -/
structure NoMicroOperation (s t : State) : Prop extends NoSampleOrUpdate s t where
  P : t.P = s.P

theorem NoSampleOrUpdate.of_J (hY : t.Y = s.Y) (hJ : t.J = s.J) : NoSampleOrUpdate s t :=
  ⟨hY, fun _ => by rw [hJ], fun _ => by rw [hJ], fun _ => by rw [hJ]⟩

theorem NoMicroOperation.of_J (hY : t.Y = s.Y) (hJ : t.J = s.J) (hP : t.P = s.P) : NoMicroOperation s t :=
  ⟨.of_J hY hJ, hP⟩

/-! The host commands -/

/-- DISABLE writes the voltage commands of `J` alone (R172). -/
theorem disableAtOnce_noMicroOperation (s : State) : NoMicroOperation s (disableAtOnce s) := by
  rw [disableAtOnce_eq]
  refine ⟨⟨rfl, fun j => ?_, fun j => ?_, fun j => ?_⟩, rfl⟩ <;> fin_cases j <;> rfl

/-- SETPOINT writes the setpoints of `J` alone (R175). -/
theorem storeSetpoints_noMicroOperation (v : PerJoint Fp) (n : Nat) :
    NoMicroOperation s (storeSetpoints v { s with draws := n }) := by
  refine ⟨⟨rfl, fun j => ?_, fun j => ?_, fun j => ?_⟩, rfl⟩ <;> rw [storeSetpoints_get]

theorem runCommand_noMicroOperation {f : State → State} {l : List Access} (hf : NoMicroOperation s (f s))
    (h : runCommand f l s = .next t) : NoMicroOperation s t := by
  rcases runCommand_cases s f l with ⟨_, e⟩ | ⟨_, e⟩ <;> rw [e] at h <;> cases h
  · exact hf
  · exact .of_J rfl rfl rfl

/-- ENABLE resets the controllers and neither samples nor updates (R171). -/
theorem exec_enable_noSampleOrUpdate (h : exec .enable s = .next t) : NoSampleOrUpdate s t := by
  rcases runCommand_cases s enableAtOnce enableAccesses with ⟨_, e⟩ | ⟨_, e⟩
  · obtain rfl := Host.Outcome.next.inj (e.symm.trans h)
    rw [enableAtOnce_eq]
    exact .of_J rfl rfl
  · obtain rfl := Host.Outcome.next.inj (e.symm.trans h)
    exact .of_J rfl rfl

/-- No host command but ENABLE runs a micro-operation (R112, R147). -/
theorem exec_host_noMicroOperation {i : Instr} {bytes : List Byte} (hi : encode i = .host bytes)
    (hne : i ≠ .enable) (h : exec i s = .next t) : NoMicroOperation s t := by
  cases i with
  | enable => exact absurd rfl hne
  | disable => exact runCommand_noMicroOperation (disableAtOnce_noMicroOperation s) h
  | getstate => exact runCommand_noMicroOperation (.of_J rfl rfl rfl) h
  | setpoint a b c =>
    cases hS : s.C.SNAP with
    | guarded =>
      rw [exec_setpoint_guarded a b c hS] at h
      cases h
      exact storeSetpoints_noMicroOperation _ _
    | unguarded =>
      rw [exec_setpoint_unguarded a b c hS] at h
      cases h
      exact .of_J rfl rfl rfl
  | gripopen => exact runCommand_noMicroOperation (.of_J rfl rfl rfl) h
  | gripclose => exact runCommand_noMicroOperation (.of_J rfl rfl rfl) h
  | velSample j a => cases hi
  | pidUpdate j e ff => cases hi
  | pidReset j => cases hi

/-! The dispatcher -/

/-- What bytes decode to is a host command, and ENABLE only if the first byte is 0x01 (R80, R85). -/
theorem host_of_decode {b : Byte} {bs rest : List Byte} {i : Instr} (h : decode (b :: bs) = .instr i rest) :
    (∃ bytes, encode i = .host bytes) ∧ (i = .enable → b = 0x01#8) := by
  rcases decode_cases b bs with ⟨hb, e⟩ | ⟨_, e⟩ | ⟨_, e⟩ | ⟨_, e⟩ | ⟨_, e⟩ | ⟨_, e⟩ | ⟨_, e⟩ <;> rw [e] at h
  case inl =>
    cases h
    exact ⟨⟨_, rfl⟩, fun _ => hb⟩
  case inr.inr.inr.inl =>
    rcases decodeSetpoint_cases bs with ⟨_, _, _, e', _⟩ | ⟨e', _⟩ <;> rw [e'] at h <;> cases h
    exact ⟨⟨_, rfl⟩, nofun⟩
  all_goals cases h
  all_goals exact ⟨⟨_, rfl⟩, nofun⟩

/-- The twelfth payload byte runs no micro-operation if its command runs none: `DPH` is no part of either (R170). -/
theorem commitPayload_noMicroOperation {i : Instr} (hi : ∀ u, exec i s = .next u → NoMicroOperation s u)
    (h : commitPayload i s = .next t) : NoMicroOperation s t := by
  obtain ⟨u, hu, hcases⟩ := commitPayload_cases i s
  obtain ⟨⟨hY, hangle, hvelocity, hprevious⟩, hP⟩ := hi u hu
  rcases hcases with ⟨_, e⟩ | ⟨_, e⟩ <;> rw [e] at h <;> cases h <;>
    exact ⟨⟨hY, hangle, hvelocity, hprevious⟩, hP⟩

/-- A dispatcher step runs no micro-operation unless it receives ENABLE, which resets alone (R112, R147). -/
theorem dispatcherStep_noMicroOperation {b : Byte} (h : dispatcherStep b s = .next t) :
    (s.DPH = .waitOpcode ∧ b = 0x01#8 ∧ NoSampleOrUpdate s t) ∨ NoMicroOperation s t := by
  rcases dispatcherStep_cases h with ⟨hd, i, _, hdec, h⟩ | ⟨_, _, rfl⟩ | ⟨_, _, rfl⟩ | ⟨_, _, _, rfl⟩ |
    ⟨_, i, _, _, _, hdec, h⟩ | ⟨_, _, _, rfl⟩
  case inl =>
    obtain ⟨⟨_, hhost⟩, henable⟩ := host_of_decode hdec
    by_cases hi : i = .enable
    · exact .inl ⟨hd, henable hi, exec_enable_noSampleOrUpdate (hi ▸ h)⟩
    · exact .inr (exec_host_noMicroOperation hhost hi h)
  case inr.inr.inr.inr.inl =>
    obtain ⟨⟨_, hhost⟩, henable⟩ := host_of_decode hdec
    have hi : i ≠ .enable := fun hi => absurd (henable hi) (by decide)
    exact .inr (commitPayload_noMicroOperation (fun _ => exec_host_noMicroOperation hhost hi) h)
  all_goals exact .inr (.of_J rfl rfl rfl)

theorem dispatcherStep_uop {b : Byte} (h : dispatcherStep b s = .next t) : t.uop = s.uop := by
  rcases dispatcherStep_cases h with ⟨_, i, _, _, h⟩ | ⟨_, _, rfl⟩ | ⟨_, _, rfl⟩ | ⟨_, _, _, rfl⟩ |
    ⟨_, i, _, _, _, _, h⟩ | ⟨_, _, _, rfl⟩
  case inl => exact (exec_keepsPorts h).uop
  case inr.inr.inr.inr.inl =>
    obtain ⟨u, hu, ⟨_, e⟩ | ⟨_, e⟩⟩ := commitPayload_cases i s <;> rw [e] at h <;> cases h <;>
      exact (exec_keepsPorts hu).uop
  all_goals rfl

/-! The foreground context -/

/-- No field that a host command writes is `previous_angle` (R37). -/
theorem writeField_previous_angle (s : State) (j : Joint) (f : FpField) (v : Fp) (k : Joint) :
    ((s.writeField j f v).J.get k).previous_angle = (s.J.get k).previous_angle := by
  by_cases h : j = k <;> cases f <;> simp [State.writeField, h]

theorem perform_previous_angle (s : State) (pick : Nat) (a : Access) (k : Joint) :
    ((a.perform pick s).1.J.get k).previous_angle = (s.J.get k).previous_angle := by
  cases a with
  | store j f w left =>
    cases left with
    | nil => rfl
    | cons b bs => exact writeField_previous_angle s j f _ k
  | _ => simp [Access.perform]

theorem foreground_previous_angle (s : State) (pick : Nat) (k : Joint) :
    ((foreground pick s).J.get k).previous_angle = (s.J.get k).previous_angle := by
  rcases foreground_cases s pick with ⟨_, e⟩ | ⟨a, _, _, e⟩ <;> rw [e]
  exact perform_previous_angle s pick a k

theorem foreground_Y (s : State) (pick : Nat) : (foreground pick s).Y = s.Y := by
  rcases foreground_cases s pick with ⟨_, e⟩ | ⟨_, _, _, e⟩ <;> rw [e]
  rw [perform_frame]

theorem foreground_uop (s : State) (pick : Nat) : (foreground pick s).uop = s.uop := by
  rcases foreground_cases s pick with ⟨_, e⟩ | ⟨_, _, _, e⟩ <;> rw [e]
  rw [perform_frame]

/-! Every step -/

/-- No step puts a select word on the micro-operation port (R91; log 10). -/
theorem stepInputs_uop (hu : s.uop = none) (h : stepInputs s = .next t) : t.uop = none := by
  rcases stepInputs_cases h with ⟨_, _, rfl⟩ | ⟨_, _, rfl⟩ | ⟨_, _, _, rfl⟩ | ⟨_, _, _, rfl⟩ | ⟨_, _, _, _, h⟩ |
    ⟨_, _, _, rfl⟩ | ⟨_, _, _, _, _, rfl⟩
  · exact (tick_uop { s with draws := s.draws + 3 } _).trans hu
  · exact (foreground_uop s 0).trans hu
  · exact (tick_uop _ _).trans hu
  · exact (tick_uop _ _).trans hu
  · exact (dispatcherStep_uop h).trans hu
  · exact (foreground_uop _ _).trans hu
  · rfl

/-- A step that is no TICK and no power-on is one of the foreground context's: an access, or a byte at the dispatcher
with no access pending (R61). -/
theorem stepInputs_foreground_or_dispatcher (h : stepInputs s = .next t) (hpower : ¬ NextIsPowerOn s)
    (htick : ¬ TakesTick s) : (∃ k rest, t = foreground k { s with inputs := rest }) ∨
    (∃ b rest, s.inputs = .rx b :: rest ∧ s.burst = [] ∧ dispatcherStep b { s with inputs := rest } = .next t) := by
  rcases stepInputs_cases h with ⟨hi, hb, _⟩ | ⟨_, _, rfl⟩ | ⟨a, rest, hi, _⟩ | ⟨p, rest, hi, _⟩ |
    ⟨b, rest, hi, hb, h⟩ | ⟨k, rest, _, rfl⟩ | ⟨cfg, g, rest, _, hi, _⟩
  · exact absurd (.inl ⟨hi, hb⟩) htick
  · exact .inl ⟨0, s.inputs, rfl⟩
  · exact absurd (.inr (.inl ⟨a, rest, hi⟩)) htick
  · exact absurd (.inr (.inr ⟨p, rest, hi⟩)) htick
  · exact .inr ⟨b, rest, hi, hb, h⟩
  · exact .inl ⟨k, rest, rfl⟩
  · exact absurd ⟨cfg, g, rest, hi⟩ hpower

/-- Settles O50: beside TICK and power-on there are the accesses and the dispatcher, where ENABLE alone resets. -/
theorem microOperationsRunInTheBlocksSequencingAlone :
    Obligations.MicroOperationsRunInTheBlocksSequencingAlone := by
  intro s t hu h hpower
  rw [step_of_no_uop hu] at h
  refine ⟨stepInputs_uop hu h, fun htick => ?_⟩
  rcases stepInputs_foreground_or_dispatcher h hpower htick with ⟨k, rest, rfl⟩ | ⟨b, rest, hi, hb, h⟩
  · refine ⟨foreground_Y _ k, foreground_previous_angle _ k, fun hb => ?_⟩
    rw [foreground_of_no_access (s := { s with inputs := rest }) hb]
    exact ⟨fun _ => ⟨rfl, rfl⟩, fun _ => rfl⟩
  · rcases dispatcherStep_noMicroOperation h with ⟨hd, rfl, hk⟩ | hk
    · exact ⟨hk.Y, hk.previous_angle, fun _ => ⟨fun j => ⟨hk.angle j, hk.velocity j⟩,
        fun hnot => absurd ⟨hb, hd, rest, hi⟩ hnot⟩⟩
    · exact ⟨hk.Y, hk.previous_angle, fun _ => ⟨fun j => ⟨hk.angle j, hk.velocity j⟩, fun _ => hk.P⟩⟩

end Sys2Proof.Machine
end

section
/-! SUPPORT. Zeros of binary32 (R117, R126, R141): rounding gives back a magnitude that is one already, so a sum with
a zero is the other operand, up to the sign of a zero sum. -/

namespace Sys2Proof

/-! Rounding what needs no rounding -/

theorem Fp.roundTiesToEven_mul (m : Nat) {d : Nat} (h : 0 < d) : Fp.roundTiesToEven (m * d) d = m := by
  simp [Fp.roundTiesToEven, Nat.mul_div_cancel _ h, h.ne]

/-- A word is its sign and its low 31 bits (R87). -/
theorem Fp.ofSignMag_fields (x : Fp) : Fp.ofSignMag (Fp.sign x) (Fp.expo x * 2 ^ 23 + Fp.frac x) = x := by
  have he := Fp.expo_lt x
  have hf := Fp.frac_lt x
  refine Fp.ext_fields (Fp.sign_ofSignMag (by omega)) ?_ ?_
  · rw [Fp.expo_ofSignMag (by omega)]
    omega
  · rw [Fp.frac_ofSignMag (by omega)]
    omega

/-- The shift that `roundUnits` chooses for the magnitude of a word is the one its exponent stands for. -/
theorem Fp.log2_units (x : Fp) : Nat.log2 (Fp.units x) - 23 = Fp.expo x - 1 := by
  have hf := Fp.frac_lt x
  unfold Fp.units
  split
  · rename_i he
    rcases Nat.eq_zero_or_pos (Fp.frac x) with h0 | hpos
    · simp [h0, he]
    · have hlog : Nat.log2 (Fp.frac x) < 23 := (Nat.log2_lt hpos.ne').2 hf
      omega
  · have hlog : Nat.log2 ((2 ^ 23 + Fp.frac x) * 2 ^ (Fp.expo x - 1)) = 23 + (Fp.expo x - 1) := by
      refine (Nat.log2_eq_iff (by positivity)).2 ⟨?_, ?_⟩
      · rw [Nat.pow_add]
        exact Nat.mul_le_mul_right _ (Nat.le_add_right _ _)
      · rw [Nat.add_right_comm, Nat.pow_add]
        exact Nat.mul_lt_mul_of_pos_right (by omega) (by positivity)
    omega

/-- A magnitude of a finite word rounds to that word (R11). -/
theorem Fp.roundUnits_units {x : Fp} (h : Fp.isFinite x = true) :
    Fp.roundUnits (Fp.sign x) (Fp.units x) 1 = x := by
  have he := Fp.expo_lt x
  have hf := Fp.frac_lt x
  have hfin := (Fp.isFinite_iff x).1 h
  have hword : (Fp.expo x - 1) * 2 ^ 23 + Fp.roundTiesToEven (Fp.units x) (1 * 2 ^ (Fp.expo x - 1)) =
      Fp.expo x * 2 ^ 23 + Fp.frac x := by
    unfold Fp.units
    split
    · rename_i h0
      rw [h0]
      simpa using Fp.roundTiesToEven_mul (Fp.frac x) Nat.one_pos
    · rw [Nat.one_mul, Fp.roundTiesToEven_mul _ (by positivity)]
      omega
  rw [Fp.roundUnits, Nat.div_one, Fp.log2_units, hword, Nat.min_eq_left (by omega), Fp.ofSignMag_fields]

/-- An exact zero rounds to the zero of the given sign (R11). -/
theorem Fp.roundUnits_zero_num (s : Bool) {den : Nat} (h : 0 < den) : Fp.roundUnits s 0 den = Fp.signedZero s := by
  have hm : Fp.roundTiesToEven 0 den = 0 := by simpa using Fp.roundTiesToEven_mul 0 h
  simp [Fp.roundUnits, hm, Fp.signedZero]

/-! The two zeros -/

@[simp] theorem Fp.isZero_signedZero (s : Bool) : Fp.isZero (Fp.signedZero s) = true := by
  cases s <;> decide

theorem Fp.eq_signedZero_of_isZero {x : Fp} (h : Fp.isZero x = true) : x = Fp.signedZero (Fp.sign x) := by
  obtain ⟨he, hf⟩ := (Fp.isZero_iff x).1 h
  have := Fp.ofSignMag_fields x
  rw [he, hf] at this
  exact this.symm

theorem Fp.isFinite_of_isZero {x : Fp} (h : Fp.isZero x = true) : Fp.isFinite x = true := by
  simp [Fp.isFinite, ((Fp.isZero_iff x).1 h).1]

theorem Fp.value_eq_zero_of_isZero {x : Fp} (h : Fp.isZero x = true) : Fp.value x = 0 := by
  simp [Fp.value, (Fp.units_eq_zero_iff x).2 h]

/-- A value that is no NaN is finite or an infinity. -/
theorem Fp.isFinite_or_eq_inf {x : Fp} (h : Fp.isNaN x = false) : Fp.isFinite x = true ∨ x = Fp.inf (Fp.sign x) := by
  cases hf : Fp.isFinite x with
  | true => exact .inl rfl
  | false =>
    refine .inr (Fp.eq_inf_of_isInf ?_)
    simp_all [Fp.isFinite, Fp.isNaN, Fp.isInf]

theorem Fp.add_comm_of_isFinite {a b : Fp} (ha : Fp.isFinite a = true) (hb : Fp.isFinite b = true) :
    Fp.add a b = Fp.add b a := by
  rw [Fp.add_of_isFinite ha hb, Fp.add_of_isFinite hb ha, Int.add_comm, Bool.and_comm]

/-! Sums with a zero -/

section
variable {x z : Fp} (hz : Fp.isZero z = true)
include hz

/-- The sign of a sum of zeros (R117). -/
theorem Fp.add_of_isZero (hx : Fp.isZero x = true) :
    Fp.add x z = Fp.signedZero (Fp.sign x && Fp.sign z) := by
  rw [Fp.add_of_isFinite (Fp.isFinite_of_isZero hx) (Fp.isFinite_of_isZero hz), Fp.value_eq_zero_of_isZero hx,
    Fp.value_eq_zero_of_isZero hz]
  rfl

/-- A value that is neither a NaN nor a zero absorbs a zero of either sign (R117). -/
theorem Fp.add_isZero_right (hn : Fp.isNaN x = false) (hx : Fp.isZero x = false) : Fp.add x z = x := by
  rcases Fp.isFinite_or_eq_inf hn with hf | hinf
  · have hpos : 0 < Fp.units x := Nat.pos_of_ne_zero fun h0 => by simp [(Fp.units_eq_zero_iff x).1 h0] at hx
    have hne : Fp.value x ≠ 0 := by
      rw [← Int.natAbs_ne_zero, Fp.value_eq_signed, natAbs_signed]
      omega
    rw [Fp.add_of_isFinite hf (Fp.isFinite_of_isZero hz), Fp.value_eq_zero_of_isZero hz, Int.add_zero, if_neg hne,
      Fp.value_eq_signed, signed_neg_iff hpos, natAbs_signed, Fp.roundUnits_units hf]
  · rw [hinf]
    exact Fp.add_inf_left (Fp.isNaN_eq_false_of_isZero hz) (by simp [Fp.isInf_eq_false_of_isZero hz])

theorem Fp.add_isZero_left (hn : Fp.isNaN x = false) (hx : Fp.isZero x = false) : Fp.add z x = x := by
  rcases Fp.isFinite_or_eq_inf hn with hf | hinf
  · rw [Fp.add_comm_of_isFinite (Fp.isFinite_of_isZero hz) hf, Fp.add_isZero_right hz hn hx]
  · rw [hinf]
    exact Fp.add_inf_right (Fp.isFinite_of_isZero hz)

end

/-- +0.0 is neutral for every value but a NaN and -0.0 (R117, R126). -/
theorem Fp.add_zero_neutral {x : Fp} (hn : Fp.isNaN x = false) (hx : x ≠ 0x80000000#32) :
    Fp.add x Fp.zero = x ∧ Fp.add Fp.zero x = x := by
  have hzero : Fp.isZero Fp.zero = true := by decide
  cases hzx : Fp.isZero x with
  | false => exact ⟨Fp.add_isZero_right hzero hn hzx, Fp.add_isZero_left hzero hn hzx⟩
  | true =>
    have hword := Fp.eq_signedZero_of_isZero hzx
    cases hs : Fp.sign x with
    | true => exact absurd (hword.trans (congrArg Fp.signedZero hs)) hx
    | false =>
      obtain rfl : x = Fp.zero := hword.trans (congrArg Fp.signedZero hs)
      exact ⟨Fp.add_of_isZero hzero hzero, Fp.add_of_isZero hzero hzero⟩

/-- The difference of a finite value and itself is +0.0 (R141, R157). -/
theorem Fp.sub_self {x : Fp} (h : Fp.isFinite x = true) : Fp.sub x x = Fp.zero := by
  rw [Fp.sub, Fp.add_of_isFinite h (by simpa using h), Fp.value_neg, Int.add_right_neg, if_pos rfl, Fp.sign_neg,
    Bool.and_not_self]
  rfl

/-- The product of a finite value and a zero is the zero of the exclusive-or of the signs (R126). -/
theorem Fp.mul_isZero {x z : Fp} (h : Fp.isFinite x = true) (hz : Fp.isZero z = true) :
    Fp.mul x z = Fp.signedZero (Fp.sign x != Fp.sign z) := by
  rw [Fp.mul_of_isFinite h (Fp.isFinite_of_isZero hz), (Fp.units_eq_zero_iff z).2 hz, Nat.mul_zero,
    Fp.roundUnits_zero_num _ (by positivity)]

/-- Settles O18: the neutral zero, the sum of opposite zeros, the difference of equals, and the zero product. -/
theorem signedZeroLaws : Obligations.SignedZeroLaws := by
  have hpos : Fp.isZero Fp.zero = true := by decide
  have hneg : Fp.isZero 0x80000000#32 = true := by decide
  exact ⟨fun _ => Fp.add_zero_neutral, ⟨Fp.add_of_isZero hpos hneg, Fp.add_of_isZero hneg hpos⟩,
    fun _ => Fp.sub_self, fun _ _ => Fp.mul_isZero⟩

end Sys2Proof
end

section
/-! SUPPORT. `PID.RESET` (R111), and `PID.UPDATE` in both anti-windup modes and where its sum is a NaN (R113, R120,
U1). -/

namespace Sys2Proof.Machine

variable {s : State} {j : Joint} {e ff : Fp}

/-! PID.RESET -/

/-- Settles O20: the select word decodes whatever the buses carry, and a second reset writes the same record. -/
theorem pidResetClearsOneController : Obligations.PidResetClearsOneController := by
  intro s j A B
  refine ⟨?_, rfl, ?_⟩
  · fin_cases j <;> rfl
  · rw [exec, execPidReset, pidReset_eq, State.setP, PerJoint.set_set]
    rfl

/-! The anti-windup modes -/

/-- A NaN is not saturated (R120). -/
theorem saturated_of_nan {x : Fp} (h : Fp.isNaN x = true) (lo hi : Fp) : saturated x lo hi = false := by
  simp [saturated, Fp.lt_eq_false_of_isNaN, h]

theorem saturated_iff (x lo hi : Fp) : saturated x lo hi = true ↔ flt x lo = true ∨ fgt x hi = true := by
  simp [saturated]

/-- Under `freeze` the accumulator moves only while the sum is within the bounds (R120). -/
theorem pidUiStored_of_freeze (h : s.C.AW = .freeze) : pidUiStored s j e ff =
    if saturated (pidUnsat s j e ff) (s.C.u_min.get j) (s.C.u_max.get j) = true then (s.P.get j).ui
    else pidUiNext s j e := by
  simp only [pidUiStored, h]

/-- Where the sum is a NaN both modes store the new accumulator (R120). -/
theorem pidUiStored_of_nan (h : Fp.isNaN (pidUnsat s j e ff) = true) : pidUiStored s j e ff = pidUiNext s j e := by
  cases hAW : s.C.AW with
  | none => exact pidUiStored_of_none hAW
  | freeze => simp [pidUiStored_of_freeze hAW, saturated_of_nan h]

/-- Settles O22: the strict test of R120 is the two comparisons the statement writes out. -/
theorem freezeHoldsTheAccumulatorWhileSaturated : Obligations.FreezeHoldsTheAccumulatorWhileSaturated := by
  intro s j e ff hAW up ui_next ud u_unsat hn
  have hsum : pidUnsat s j e ff = u_unsat := rfl
  simp only [exec_pidUpdate_of_not_nan hn, pidUiStored_of_freeze hAW, saturated_iff, hsum]
  rfl

/-- The modes differ in the accumulator stored: the sum reads neither the mode nor anything a mode changes (R120). -/
theorem pidUpdate_withMode {c : Configuration} {aw : AntiWindup}
    (hagree : c.toParameters = { s.C.toParameters with AW := aw }) :
    (pidUpdate j e ff { s with C := c }).2 = { (pidUpdate j e ff s).2 with
      C := c, P := s.P.set j ⟨pidUiStored { s with C := c } j e ff, e, false⟩ } := by
  have hsum : pidUnsat { s with C := c } j e ff = pidUnsat s j e ff := by
    simp only [pidUnsat, pidUp, pidUiNext, pidUd, hagree]
    rfl
  obtain ⟨hu, hn⟩ := clampFree_congr (s := s) (t := { s with C := c }) (pidUnsat s j e ff) (s.C.u_min.get j)
    (s.C.u_max.get j) rfl
  simp only [pidUpdate_eq, hsum, hagree, hu, hn]

/-- Settles O23: the accumulator that differs is the one `freeze` stores. -/
theorem antiWindupModesAgreeOnTheOutput : Obligations.AntiWindupModesAgreeOnTheOutput := by
  rintro s t c j e ff _ hagree ⟨⟩
  refine ⟨pidUiStored { s with C := c } j e ff, congrArg Host.Outcome.next ?_⟩
  rw [pidUpdate_withMode hagree, pidUpdate_P, PerJoint.set_set, PerJoint.get_set_same]

/-! A sum that is a NaN -/

/-- A sum that is a NaN draws one free value for the result (U1). -/
theorem exec_pidUpdate_of_nan (h : Fp.isNaN (pidUnsat s j e ff) = true) :
    exec (.pidUpdate j e ff) s = .next { s with
      P := s.P.set j ⟨pidUiNext s j e, e, false⟩, Y := Config.freeFp s.draws, draws := s.draws + 1 } := by
  rw [exec, execPidUpdate, pidUpdate_eq, clampFree_of_nan s h, pidUiStored_of_nan h]
  rfl

/-- Settles O24: the statement writes out the terms of `pidUnsat`. -/
theorem pidUpdateOfANaNGivesAFreeResult : Obligations.PidUpdateOfANaNGivesAFreeResult := by
  intro s j e ff ui_next ud hn
  exact exec_pidUpdate_of_nan hn

end Sys2Proof.Machine
end

section
/-! SUPPORT. The output of the PID controller and its bounds (R121, R122). -/

namespace Sys2Proof

/-- An infinity's magnitude is above every finite one (R87). -/
theorem Fp.units_lt_of_isFinite {x : Fp} (h : Fp.isFinite x = true) (sg : Bool) :
    Fp.units x < Fp.units (Fp.inf sg) := by
  have he := Fp.expo_lt x
  have hf := Fp.frac_lt x
  have hfin := (Fp.isFinite_iff x).1 h
  have hinf : Fp.units (Fp.inf sg) = 2 ^ 24 * 2 ^ 253 := by simp [Fp.units]
  rw [hinf]
  unfold Fp.units
  split
  · exact hf.trans_le (by norm_num)
  · exact Nat.mul_lt_mul_of_lt_of_le (by omega) (Nat.pow_le_pow_right (by decide) (by omega)) (by positivity)

/-- What lies between finite bounds is finite (R122). -/
theorem Fp.isFinite_of_mem_bounds {x lo hi : Fp} (hlo : Fp.isFinite lo = true) (hhi : Fp.isFinite hi = true)
    (hl : Fp.le lo x = true) (hh : Fp.le x hi = true) : Fp.isFinite x = true := by
  obtain ⟨_, hn, vlo⟩ := (Fp.le_iff lo x).1 hl
  obtain ⟨_, _, vhi⟩ := (Fp.le_iff x hi).1 hh
  refine (Fp.isFinite_or_eq_inf hn).resolve_right fun hinf => ?_
  have hlt := Fp.units_lt_of_isFinite hlo (Fp.sign x)
  have hgt := Fp.units_lt_of_isFinite hhi (Fp.sign x)
  rw [← hinf] at hlt hgt
  unfold Fp.value at vlo vhi
  split_ifs at vlo vhi <;> omega

end Sys2Proof

namespace Sys2Proof.Machine

/-- The output bounds of every configuration are finite and in order (R8). -/
theorem outputBounds_valid (c : Configuration) (j : Joint) : Fp.isFinite (c.u_min.get j) = true ∧
    Fp.isFinite (c.u_max.get j) = true ∧ Fp.le (c.u_min.get j) (c.u_max.get j) = true := by
  obtain ⟨_, _, _, _, hjoints⟩ := (parameters_valid_iff c.toParameters).1 c.ok
  obtain ⟨_, _, _, hmin, hmax, _, _, _, hle, _⟩ := (jointValid_iff _ j).1 (hjoints j).1
  exact ⟨hmin, hmax, hle⟩

/-- Settles O25: the result is a clamp between bounds that are finite and in order. -/
theorem pidOutputIsBounded : Obligations.PidOutputIsBounded := by
  intro s j e ff hn
  obtain ⟨hmin, hmax, hle⟩ := outputBounds_valid s.C j
  obtain ⟨hlo, hhi⟩ := clamp_mem_bounds hle hn
  exact ⟨_, exec_pidUpdate_of_not_nan hn, hlo, hhi, Fp.isFinite_of_mem_bounds hmin hmax hlo hhi⟩

end Sys2Proof.Machine
end

section
/-! SUPPORT. The first update after a reset (R126): its sum is `kp*e + ki*e*T` with zeros added, which change it in the
sign of a zero at most. -/

namespace Sys2Proof

/-- A sum that is no NaN has no NaN operand (R124). -/
theorem Fp.isNaN_operands_of_add {a b : Fp} (h : Fp.isNaN (Fp.add a b) = false) :
    Fp.isNaN a = false ∧ Fp.isNaN b = false := by
  refine ⟨Bool.eq_false_iff.2 fun ha => ?_, Bool.eq_false_iff.2 fun hb => ?_⟩
  · simp [Fp.isNaN_add_of_isNaN (.inl ha)] at h
  · simp [Fp.isNaN_add_of_isNaN (.inr hb)] at h

/-! Values that agree up to the sign of a zero -/

/-- The same word, or two zeros. -/
def Fp.EqUpToZeroSign (x y : Fp) : Prop := x = y ∨ (Fp.isZero x = true ∧ Fp.isZero y = true)

section
variable {x y z c : Fp}

theorem Fp.EqUpToZeroSign.trans (h : Fp.EqUpToZeroSign x y) (h' : Fp.EqUpToZeroSign y z) :
    Fp.EqUpToZeroSign x z := by
  rcases h with rfl | ⟨hx, hy⟩
  · exact h'
  · rcases h' with rfl | ⟨_, hz⟩
    · exact .inr ⟨hx, hy⟩
    · exact .inr ⟨hx, hz⟩

theorem Fp.EqUpToZeroSign.isNaN_eq (h : Fp.EqUpToZeroSign x y) : Fp.isNaN x = Fp.isNaN y := by
  rcases h with rfl | ⟨hx, hy⟩
  · rfl
  · rw [Fp.isNaN_eq_false_of_isZero hx, Fp.isNaN_eq_false_of_isZero hy]

theorem Fp.EqUpToZeroSign.isZero_eq (h : Fp.EqUpToZeroSign x y) : Fp.isZero x = Fp.isZero y := by
  rcases h with rfl | ⟨hx, hy⟩
  · rfl
  · rw [hx, hy]

theorem Fp.EqUpToZeroSign.value_eq (h : Fp.EqUpToZeroSign x y) : Fp.value x = Fp.value y := by
  rcases h with rfl | ⟨hx, hy⟩
  · rfl
  · rw [Fp.value_eq_zero_of_isZero hx, Fp.value_eq_zero_of_isZero hy]

/-- What is within the bounds up to the sign of a zero is its own clamp (R12). -/
theorem Fp.EqUpToZeroSign.clamp_eq {lo hi : Fp} (h : Fp.EqUpToZeroSign x y) (hlo : Fp.le lo y = true)
    (hhi : Fp.le y hi = true) : clamp x lo hi = x :=
  clamp_of_le (by rwa [Fp.le, h.isNaN_eq, h.value_eq]) (by rwa [Fp.le, h.isNaN_eq, h.value_eq])

/-- A sum changes with the sign of a zero operand in the sign of a zero at most (R117). -/
theorem Fp.EqUpToZeroSign.add_left (h : Fp.EqUpToZeroSign x y) (hc : Fp.isNaN c = false) :
    Fp.EqUpToZeroSign (Fp.add c x) (Fp.add c y) := by
  rcases h with rfl | ⟨hx, hy⟩
  · exact .inl rfl
  · cases hz : Fp.isZero c with
    | true =>
      rw [Fp.add_of_isZero hx hz, Fp.add_of_isZero hy hz]
      exact .inr ⟨Fp.isZero_signedZero _, Fp.isZero_signedZero _⟩
    | false => exact .inl (by rw [Fp.add_isZero_right hx hc hz, Fp.add_isZero_right hy hc hz])

/-- Adding +0.0 on either side changes the sign of a zero at most (R117). -/
theorem Fp.eqUpToZeroSign_add_zero (hn : Fp.isNaN x = false) :
    Fp.EqUpToZeroSign (Fp.add x Fp.zero) x ∧ Fp.EqUpToZeroSign (Fp.add Fp.zero x) x := by
  by_cases hx : x = 0x80000000#32
  · subst hx
    exact ⟨.inr (by decide), .inr (by decide)⟩
  · obtain ⟨hr, hl⟩ := Fp.add_zero_neutral hn hx
    exact ⟨.inl hr, .inl hl⟩

end

end Sys2Proof

namespace Sys2Proof.Machine

variable {s : State} {j : Joint} {e : Fp}

/-- What `u_unsat` is after a reset with feed-forward +0.0: the derivative term, the accumulator and the feed-forward
add a zero each (R111, R116). -/
theorem pidUnsat_after_reset : pidUnsat (pidReset j s) j e Fp.zero =
    Fp.add (Fp.add (Fp.add (pidUp s j e)
      (Fp.add Fp.zero (fmul (fmul (s.C.ki.get j) e) s.C.T))) Fp.zero) Fp.zero := by
  simp only [pidUnsat, pidUiNext, pidUd, pidReset_eq, State.setP_P, PerJoint.get_set_same, PidState.atReset, if_true]
  rfl

/-- The zeros change the sum in the sign of a zero at most (R126). -/
theorem pidUnsat_after_reset_eqUpToZeroSign
    (hn : Fp.isNaN (fadd (pidUp s j e) (fmul (fmul (s.C.ki.get j) e) s.C.T)) = false) :
    Fp.EqUpToZeroSign (pidUnsat (pidReset j s) j e Fp.zero)
      (fadd (pidUp s j e) (fmul (fmul (s.C.ki.get j) e) s.C.T)) := by
  rw [pidUnsat_after_reset]
  generalize pidUp s j e = up at *
  generalize fmul (fmul (s.C.ki.get j) e) s.C.T = q at *
  obtain ⟨hup, hq⟩ := Fp.isNaN_operands_of_add hn
  have hsum := (Fp.eqUpToZeroSign_add_zero hq).2.add_left hup
  have hderivative := (Fp.eqUpToZeroSign_add_zero (hsum.isNaN_eq.trans hn)).1.trans hsum
  exact (Fp.eqUpToZeroSign_add_zero (hderivative.isNaN_eq.trans hn)).1.trans hderivative

/-- Settles O26: the sum agrees with `kp*e + ki*e*T` up to the sign of a zero, and so lies within the bounds. -/
theorem firstUpdateHasNoDerivative : Obligations.FirstUpdateHasNoDerivative := by
  rintro s _ u j e ⟨⟩ x hn hlo hhi hu
  have hagree : Fp.EqUpToZeroSign (pidUnsat (pidReset j s) j e Fp.zero) x := pidUnsat_after_reset_eqUpToZeroSign hn
  have hY : u.Y = pidUnsat (pidReset j s) j e Fp.zero := by
    cases (exec_pidUpdate_of_not_nan (hagree.isNaN_eq.trans hn)).symm.trans hu
    exact hagree.clamp_eq hlo hhi
  rw [hY]
  exact ⟨fun hx => hagree.resolve_right fun hz => by simp [hz.2] at hx, fun hx => hagree.isZero_eq.trans hx⟩

end Sys2Proof.Machine
end

section
/-! SUPPORT. The velocity estimator (R141, R143): the record a sample writes, the difference of two samples, and the
+0.0 of two equal ones, for which the rate's sign counts. -/

namespace Sys2Proof

/-- What is above +0.0 has a clear sign bit. -/
theorem Fp.sign_eq_false_of_zero_lt {x : Fp} (h : Fp.lt Fp.zero x = true) : Fp.sign x = false := by
  obtain ⟨_, _, hlt⟩ := (Fp.lt_iff Fp.zero x).1 h
  have hzero : Fp.value Fp.zero = 0 := Fp.value_eq_zero_of_isZero (by decide)
  refine Bool.eq_false_iff.2 fun hs => ?_
  rw [hzero, Fp.value, if_pos hs] at hlt
  omega

/-- Scaling +0.0 by a positive finite value gives +0.0 (R141). -/
theorem Fp.zero_mul_of_pos {x : Fp} (hf : Fp.isFinite x = true) (hpos : Fp.lt Fp.zero x = true) :
    Fp.mul Fp.zero x = Fp.zero := by
  have hzero : Fp.isFinite Fp.zero = true := by decide
  rw [Fp.mul_of_isFinite hzero hf, (Fp.units_eq_zero_iff Fp.zero).2 (by decide), Nat.zero_mul,
    Fp.roundUnits_zero_num _ (by positivity), Fp.sign_eq_false_of_zero_lt hpos]
  rfl

end Sys2Proof

namespace Sys2Proof.Machine

/-- The rate of every configuration is finite and positive (R8). -/
theorem rate_valid (c : Configuration) : Fp.isFinite c.F = true ∧ Fp.lt Fp.zero c.F = true := by
  obtain ⟨hfinite, hpos, _⟩ := (parameters_valid_iff c.toParameters).1 c.ok
  exact ⟨hfinite, hpos⟩

variable (s : State) (j : Joint) (a : Fp)

/-- The record of the joint after a sample (R141). -/
theorem velSample_J_get_same : (velSample j a s).J.get j =
    ⟨(s.J.get j).setpoint, a, velocityOf s j a, (s.J.get j).voltage_cmd, a⟩ := by
  rw [velSample_eq, PerJoint.get_set_same]

/-- Two equal finite samples give the velocity +0.0 (R141). -/
theorem velocityOf_previous_angle (h : Fp.isFinite (s.J.get j).previous_angle = true) :
    velocityOf s j (s.J.get j).previous_angle = Fp.zero := by
  obtain ⟨hfinite, hpos⟩ := rate_valid s.C
  rw [velocityOf, fsub_eq, Fp.sub_self h, fmul_eq, Fp.zero_mul_of_pos hfinite hpos]

/-- Settles O29: the second sample finds `a0` in `previous_angle` and the rate of the first. -/
theorem velocityIsTheDifferenceOfTwoSamples : Obligations.VelocityIsTheDifferenceOfTwoSamples := by
  rintro s _ t' _ j a0 a1 ⟨⟩ hprev hrate ⟨⟩
  have hF : t'.C.F = s.C.F := hrate
  rw [velSample_J_get_same] at hprev
  rw [velSample_J_get_same]
  refine ⟨by rw [velocityOf, hprev, hF], ?_⟩
  rintro hfinite rfl
  subst hprev
  exact velocityOf_previous_angle t' j hfinite

/-- Settles O28: the select word names joint and operation, and the sample writes one record. -/
theorem velSampleScalesTheDifferenceByTheRate : Obligations.VelSampleScalesTheDifferenceByTheRate := by
  intro s j a B
  refine ⟨?_, rfl⟩
  fin_cases j <;> rfl

end Sys2Proof.Machine
end

section
/-! SUPPORT. The control cycle as a step (R150, R154, R155, R224): the ways a step can be a TICK, and the TICK with
motors disabled, which only samples (R147, R152). -/

namespace Sys2Proof.Machine

variable {s : State}

/-! The ways to have a TICK -/

/-- With nothing listed and nothing pending a TICK runs on free answers (R223; log 4). -/
theorem step_freeTick (hu : s.uop = none) (hi : s.inputs = []) (hb : s.burst = []) : step s = .next (freeTick s) := by
  simp only [step_of_no_uop hu, stepInputs, hi, hb]

/-- A TICK on register payloads (R201). -/
theorem step_tickPayload {p : PerJoint (BitVec 14)} {rest : List Input} (hu : s.uop = none)
    (hi : s.inputs = .tickPayload p :: rest) : step s = .next (payloadTick p { s with inputs := rest }) := by
  simp only [step_of_no_uop hu, stepInputs, hi]

/-- The count of a register payload drops its two low bits (R201). -/
theorem encoderCount_toNat (p : BitVec 14) : (encoderCount p).toNat = p.toNat / 4 := by
  have hp := p.isLt
  simp only [encoderCount, BitVec.extractLsb_toNat, Nat.shiftRight_eq_div_pow]
  omega

/-- The answers of the three Encoder Channels to their register payloads (R201). -/
def encoderAnswers (s : State) (p : PerJoint (BitVec 14)) : PerJoint Fp :=
  ⟨s.readAngle 0 p.j0, s.readAngle 1 p.j1, s.readAngle 2 p.j2⟩

theorem encoderAnswers_get (s : State) (p : PerJoint (BitVec 14)) (j : Joint) :
    (encoderAnswers s p).get j = s.readAngle j (p.get j) := by
  fin_cases j <;> rfl

/-- Settles O34: `freeTick` and `payloadTick` are TICKs with the answers the statement names. -/
theorem ticksWithoutListedAnswers : Obligations.TicksWithoutListedAnswers := by
  refine ⟨fun s hu hi hb => ?_, fun s p rest hu hi => ⟨encoderAnswers s p, fun j => ?_, ?_⟩⟩
  · rw [step_freeTick hu hi hb, step_tick (rest := []) (by exact hu) rfl, freeTick, ← hi]
  · rw [encoderAnswers_get]
    exact ⟨isFinite_readAngle s j _, encoderCount (p.get j), encoderCount_toNat _, rfl⟩
  · rw [step_tickPayload hu hi]
    exact (step_tick (s := { s with inputs := .tick (encoderAnswers s p) :: rest }) hu rfl).symm

/-- Settles O32: what a TICK writes is listed in its frame, and no setpoint is among it. -/
theorem tickLeavesTheForegroundUntouched : Obligations.TickLeavesTheForegroundUntouched := by
  intro s a rest hu hi
  exact ⟨_, step_tick hu hi, tick_inputs _ a, tick_MEN _ a, tick_GRIP _ a, tick_DPH _ a, tick_C _ a, tick_tx _ a,
    tick_burst _ a, tick_setpoint a _⟩

/-! A TICK with motors disabled -/

/-- The record of joint `j` after the sample `a` (R141). -/
def sampledRecord (s : State) (j : Joint) (a : Fp) : JointState :=
  ⟨(s.J.get j).setpoint, a, velocityOf s j a, (s.J.get j).voltage_cmd, a⟩

theorem velSample_eq_sampledRecord (s : State) (j : Joint) (a : Fp) :
    velSample j a s = s.setJ j (sampledRecord s j a) := rfl

theorem tickJoint_of_disabled (hM : s.MEN = false) (j : Joint) (a : Fp) :
    tickJoint j a s = velSample j a { s with events := s.events ++ [.encRead j] } := by
  have hM' : (velSample j a (s.emit (.encRead j))).MEN = false := hM
  simp only [tickJoint, hM']
  rfl

/-- The whole effect of a TICK with motors disabled (R152). -/
theorem tick_of_disabled (hM : s.MEN = false) (a : PerJoint Fp) : tick a s = { s with
    J := ⟨sampledRecord s 0 a.j0, sampledRecord s 1 a.j1, sampledRecord s 2 a.j2⟩
    events := s.events ++ [.encRead 0, .encRead 1, .encRead 2] } := by
  rw [tick, tickJoint_of_disabled (by simpa using hM) 2, tickJoint_of_disabled (by simpa using hM) 1,
    tickJoint_of_disabled hM 0]
  simp only [velSample_eq_sampledRecord, State.setJ, List.append_assoc, List.cons_append, List.nil_append]
  rfl

/-- Settles O30: joint by joint, the record after a TICK is the sampled one. -/
theorem disabledTickOnlySamples : Obligations.DisabledTickOnlySamples := by
  intro s a rest hu hi hM
  refine ⟨_, (step_tick hu hi).trans (congrArg Host.Outcome.next
    (tick_of_disabled (s := { s with inputs := rest }) hM a)), fun j => ?_⟩
  fin_cases j <;> rfl

end Sys2Proof.Machine
end

section
/-! SUPPORT. A TICK with motors enabled (R150, R151, R153): what it makes of one joint, which depends on that joint's
own records and Actuator Channel alone. -/

namespace Sys2Proof.Machine

variable {s t u : State} {i j : Joint} {a : Fp}

/-! The Actuator Channel after a command -/

/-- A command to one channel leaves the others (R207). -/
theorem setCmd_ACT_ne (s : State) (h : i ≠ j) (cmd : Fp) : (s.setCmd i cmd).ACT.get j = s.ACT.get j := by
  rcases setCmd_cases s i cmd with ⟨_, e⟩ | ⟨_, _, e⟩ | ⟨_, _, e⟩ <;> simp [e, h]

/-- An armed channel takes the clamped pulse width of its command where that is a number (R207). -/
theorem setCmd_pulse {cmd : Fp} (ha : (s.ACT.get j).armed = true)
    (hn : Fp.isNaN (pulseOf (s.C.act.get j) cmd) = false) : ((s.setCmd j cmd).ACT.get j).pulse =
      clamp (pulseOf (s.C.act.get j) cmd) (s.C.act.get j).pulse_min (s.C.act.get j).pulse_max := by
  rcases setCmd_cases s j cmd with ⟨hd, _⟩ | ⟨_, _, e⟩ | ⟨_, hn', _⟩
  · simp [ha] at hd
  · simp [e]
  · simp [hn] at hn'

/-- What `c` makes of the Actuator Channel of joint `j` when it is sent there (R207; log 12). -/
structure Driven (j : Joint) (c : Fp) (s t : State) : Prop where
  armed : (t.ACT.get j).armed = (s.ACT.get j).armed
  disarmed : (s.ACT.get j).armed = false → t.ACT.get j = s.ACT.get j
  pulse : (s.ACT.get j).armed = true → Fp.isNaN (pulseOf (s.C.act.get j) c) = false →
    (t.ACT.get j).pulse =
      clamp (pulseOf (s.C.act.get j) c) (s.C.act.get j).pulse_min (s.C.act.get j).pulse_max

theorem emit_actSet_driven (s : State) (j : Joint) (c : Fp) : Driven j c s (s.emit (.actSet j c)) where
  armed := setCmd_armed _ j j c
  disarmed hd := setCmd_disarmed { s with events := s.events ++ [.actSet j c] } hd j c
  pulse ha hn := setCmd_pulse (s := { s with events := s.events ++ [.actSet j c] }) ha hn

/-! What one joint's part of a TICK leaves of the other joints -/

/-- The records and the Actuator Channel of joint `j`, and the configuration, are in `t` what they are in `s`. -/
structure SameJoint (j : Joint) (s t : State) : Prop where
  J : t.J.get j = s.J.get j
  P : t.P.get j = s.P.get j
  ACT : t.ACT.get j = s.ACT.get j
  C : t.C = s.C

theorem SameJoint.refl (j : Joint) (s : State) : SameJoint j s s := ⟨rfl, rfl, rfl, rfl⟩

theorem SameJoint.trans (h : SameJoint j s t) (h' : SameJoint j t u) : SameJoint j s u :=
  ⟨h'.J.trans h.J, h'.P.trans h.P, h'.ACT.trans h.ACT, h'.C.trans h.C⟩

theorem servoJoint_sameJoint (s : State) (h : i ≠ j) : SameJoint j s (servoJoint i s) where
  J := by rw [servoJoint_frame]; simp [h]
  P := by rw [servoJoint_frame]; simp [h]
  ACT := (setCmd_ACT_ne _ h _).trans (by simp)
  C := by rw [servoJoint_frame]

theorem velSample_sameJoint (s : State) (h : i ≠ j) (a : Fp) : SameJoint j s (velSample i a s) :=
  ⟨by simp [velSample, h], rfl, rfl, rfl⟩

theorem tickJoint_sameJoint (s : State) (h : i ≠ j) (a : Fp) : SameJoint j s (tickJoint i a s) := by
  have hread : SameJoint j s (s.emit (.encRead i)) := ⟨rfl, rfl, rfl, rfl⟩
  have hsample := hread.trans (velSample_sameJoint (s.emit (.encRead i)) h a)
  unfold tickJoint
  simp only
  split
  · exact hsample.trans (servoJoint_sameJoint _ h)
  · exact hsample

/-- The sum of R117 and the accumulator stored read the joint's own controller and the configuration alone (R27). -/
theorem SameJoint.pidUnsat_eq (h : SameJoint j s t) (e ff : Fp) : pidUnsat t j e ff = pidUnsat s j e ff := by
  simp only [pidUnsat, pidUp, pidUiNext, pidUd, h.P, h.C]

theorem SameJoint.pidUiStored_eq (h : SameJoint j s t) (e ff : Fp) :
    pidUiStored t j e ff = pidUiStored s j e ff := by
  simp only [pidUiStored, h.pidUnsat_eq, pidUiNext, h.P, h.C]

theorem SameJoint.sampledRecord_eq (h : SameJoint j s t) (a : Fp) : sampledRecord t j a = sampledRecord s j a := by
  simp only [sampledRecord, velocityOf, h.J, h.C]

/-! What one joint's part of a TICK makes of its own joint -/

/-- The command of joint `j` that stands in `t` (R24). -/
def State.command (t : State) (j : Joint) : Fp := (t.J.get j).voltage_cmd

/-- From `s` to `t` joint `j` has had its sample `a` and the update that follows, and `t` holds its result (R150,
R153). -/
structure Servoed (j : Joint) (a : Fp) (s t : State) : Prop where
  J : t.J.get j = { sampledRecord s j a with voltage_cmd := t.command j }
  P : t.P.get j = ⟨pidUiStored s j (fsub (s.J.get j).setpoint a) Fp.zero, fsub (s.J.get j).setpoint a, false⟩
  command : Fp.isNaN (pidUnsat s j (fsub (s.J.get j).setpoint a) Fp.zero) = false →
    t.command j = clamp (pidUnsat s j (fsub (s.J.get j).setpoint a) Fp.zero) (s.C.u_min.get j) (s.C.u_max.get j)
  channel : Driven j (t.command j) s t

theorem Servoed.congr {s' t' : State} (h : Servoed j a s t) (hs : SameJoint j s' s) (ht : SameJoint j t t') :
    Servoed j a s' t' := by
  have hcommand : t'.command j = t.command j := by rw [State.command, ht.J, State.command]
  obtain ⟨hJ, hP, hc, harmed, hdisarmed, hpulse⟩ := h
  rw [hs.sampledRecord_eq, ← hcommand, ← ht.J] at hJ
  rw [hs.J, hs.pidUiStored_eq, ← ht.P] at hP
  rw [hs.J, hs.pidUnsat_eq, hs.C, ← hcommand] at hc
  rw [hs.ACT, ← ht.ACT] at harmed hdisarmed hpulse
  rw [hs.C, ← hcommand] at hpulse
  exact ⟨hJ, hP, hc, harmed, hdisarmed, hpulse⟩

theorem pidUpdate_result {e ff : Fp} (h : Fp.isNaN (pidUnsat s j e ff) = false) :
    (pidUpdate j e ff s).1 = clamp (pidUnsat s j e ff) (s.C.u_min.get j) (s.C.u_max.get j) := by
  rw [pidUpdate_eq, clampFree_of_not_nan s h]

theorem servoJoint_command (s : State) (j : Joint) :
    (servoJoint j s).command j = (pidUpdate j (jointError s j) Fp.zero s).1 := by
  rw [State.command, servoJoint_frame, PerJoint.get_set_same]

theorem servoJoint_driven (s : State) (j : Joint) : Driven j ((servoJoint j s).command j) s (servoJoint j s) := by
  obtain ⟨harmed, hdisarmed, hpulse⟩ := emit_actSet_driven
    ((pidUpdate j (jointError s j) Fp.zero s).2.writeField j .voltage_cmd (pidUpdate j (jointError s j) Fp.zero s).1)
    j (pidUpdate j (jointError s j) Fp.zero s).1
  rw [servoJoint_command]
  simp only [writeField_ACT, writeField_C, pidUpdate_ACT, pidUpdate_C] at harmed hdisarmed hpulse
  exact ⟨harmed, hdisarmed, hpulse⟩

/-- With motors enabled a joint's part of a TICK is the servo path on the sampled state (R150). -/
theorem tickJoint_of_enabled (hM : s.MEN = true) (j : Joint) (a : Fp) :
    tickJoint j a s = servoJoint j (velSample j a { s with events := s.events ++ [.encRead j] }) := by
  have hM' : (velSample j a (s.emit (.encRead j))).MEN = true := hM
  simp only [tickJoint, hM', if_true]
  rfl

theorem tickJoint_servoed (hM : s.MEN = true) (j : Joint) (a : Fp) : Servoed j a s (tickJoint j a s) := by
  rw [tickJoint_of_enabled hM]
  generalize hv : velSample j a { s with events := s.events ++ [.encRead j] } = v
  have hrecord : v.J.get j = sampledRecord s j a := by rw [← hv]; exact velSample_J_get_same _ j a
  have herror : jointError v j = fsub (s.J.get j).setpoint a := by rw [jointError, hrecord]; rfl
  have hsum (e ff : Fp) : pidUnsat v j e ff = pidUnsat s j e ff := by rw [← hv]; rfl
  have hstored (e ff : Fp) : pidUiStored v j e ff = pidUiStored s j e ff := by rw [← hv]; rfl
  have hC : v.C = s.C := by rw [← hv]; rfl
  have hACT : v.ACT = s.ACT := by rw [← hv]; rfl
  obtain ⟨harmed, hdisarmed, hpulse⟩ := servoJoint_driven v j
  rw [hACT] at harmed hdisarmed hpulse
  rw [hC] at hpulse
  refine ⟨?_, ?_, fun hn => ?_, harmed, hdisarmed, hpulse⟩
  · rw [servoJoint_command, servoJoint_frame, PerJoint.get_set_same, hrecord]
  · rw [servoJoint_frame, PerJoint.get_set_same, hstored, herror]
  · rw [servoJoint_command, herror, pidUpdate_result (by rwa [hsum]), hsum, hC]

/-- A joint's part of a TICK sends its command and puts it on the bus `Y` (R150, R153; log 11). -/
theorem tickJoint_events (hM : s.MEN = true) (j : Joint) (a : Fp) : (tickJoint j a s).events =
    s.events ++ [.encRead j, .actSet j ((tickJoint j a s).command j)] := by
  rw [tickJoint_of_enabled hM, servoJoint_command, servoJoint_frame]
  simp [velSample]

theorem tickJoint_Y (hM : s.MEN = true) (j : Joint) (a : Fp) :
    (tickJoint j a s).Y = (tickJoint j a s).command j := by
  rw [tickJoint_of_enabled hM, servoJoint_command, servoJoint_frame]

/-! The whole TICK -/

theorem tick_servoed (hM : s.MEN = true) (a : PerJoint Fp) (j : Joint) : Servoed j (a.get j) s (tick a s) := by
  match j with
  | 0 =>
    exact (tickJoint_servoed hM 0 a.j0).congr (.refl 0 s)
      ((tickJoint_sameJoint _ (by decide) _).trans (tickJoint_sameJoint _ (by decide) _))
  | 1 =>
    exact (tickJoint_servoed (by simpa using hM) 1 a.j1).congr (tickJoint_sameJoint s (by decide) _)
      (tickJoint_sameJoint _ (by decide) _)
  | 2 =>
    exact (tickJoint_servoed (by simpa using hM) 2 a.j2).congr
      ((tickJoint_sameJoint s (by decide) _).trans (tickJoint_sameJoint _ (by decide) _)) (.refl 2 _)

theorem SameJoint.command_eq (h : SameJoint j s t) : t.command j = s.command j := by
  rw [State.command, h.J, State.command]

/-- The events of a TICK in joint order (R151). -/
theorem tick_events (hM : s.MEN = true) (a : PerJoint Fp) : (tick a s).events = s.events ++
    [.encRead 0, .actSet 0 ((tick a s).command 0), .encRead 1, .actSet 1 ((tick a s).command 1),
      .encRead 2, .actSet 2 ((tick a s).command 2)] := by
  have h0 : SameJoint 0 (tickJoint 0 a.j0 s) (tick a s) :=
    (tickJoint_sameJoint _ (by decide) _).trans (tickJoint_sameJoint _ (by decide) _)
  have h1 : SameJoint 1 (tickJoint 1 a.j1 (tickJoint 0 a.j0 s)) (tick a s) := tickJoint_sameJoint _ (by decide) _
  rw [h0.command_eq, h1.command_eq, tick, tickJoint_events (by simpa using hM) 2,
    tickJoint_events (by simpa using hM) 1, tickJoint_events hM 0]
  simp

theorem tick_Y (hM : s.MEN = true) (a : PerJoint Fp) : (tick a s).Y = (tick a s).command 2 :=
  tickJoint_Y (by simpa using hM) 2 a.j2

/-- The whole effect of a TICK with motors enabled, the records and channels being `tick_servoed`'s (R150). -/
theorem tick_of_enabled (hM : s.MEN = true) (a : PerJoint Fp) : tick a s = { s with
    J := (tick a s).J
    P := (tick a s).P
    Y := (tick a s).command 2
    events := s.events ++ [.encRead 0, .actSet 0 ((tick a s).command 0), .encRead 1,
      .actSet 1 ((tick a s).command 1), .encRead 2, .actSet 2 ((tick a s).command 2)]
    ACT := (tick a s).ACT
    draws := (tick a s).draws } :=
  (tick_frame s a).trans (by rw [tick_events hM, tick_Y hM])

/-- The three commands that stand in a state. -/
def State.commands (t : State) : PerJoint Fp := ⟨t.command 0, t.command 1, t.command 2⟩

theorem commands_get (t : State) (j : Joint) : t.commands.get j = t.command j := by
  fin_cases j <;> rfl

/-- Settles O31: the results are the commands that the TICK leaves, and each joint is servoed. -/
theorem enabledTickServoesEveryJoint : Obligations.EnabledTickServoesEveryJoint := by
  intro s a rest hu hi hM
  refine ⟨(tick a { s with inputs := rest }).commands, _, _, _, _, (step_tick hu hi).trans
    (congrArg Host.Outcome.next (tick_of_enabled (s := { s with inputs := rest }) hM a)), fun j => ?_⟩
  obtain ⟨hJ, hP, hcommand, harmed, hdisarmed, hpulse⟩ := tick_servoed (s := { s with inputs := rest }) hM a j
  rw [commands_get]
  exact ⟨hJ, hP, hcommand, harmed, hdisarmed, hpulse⟩

end Sys2Proof.Machine
end

section
/-! SUPPORT. Equilibrium (R157): what is a zero stays one through the terms of the PID sum, so a servoed joint whose
error, accumulator and error history are +0.0 commands +0.0, TICK after TICK. -/

namespace Sys2Proof

/-! Zeros through the operations -/

section
variable {x z : Fp} (hx : Fp.isFinite x = true) (hz : Fp.isZero z = true)
include hz

/-- A zero of either sign added to +0.0 gives +0.0 (R117). -/
theorem Fp.zero_add_isZero : Fp.add Fp.zero z = Fp.zero := Fp.add_of_isZero hz (by decide)

theorem Fp.isZero_add_zero : Fp.add z Fp.zero = Fp.zero := by
  rw [Fp.add_comm_of_isFinite (Fp.isFinite_of_isZero hz) (by decide), Fp.zero_add_isZero hz]

include hx

theorem Fp.isZero_mul_right : Fp.isZero (Fp.mul x z) = true := by
  rw [Fp.mul_isZero hx hz, Fp.isZero_signedZero]

theorem Fp.isZero_mul_left : Fp.isZero (Fp.mul z x) = true := by
  rw [Fp.mul_of_isFinite (Fp.isFinite_of_isZero hz) hx, (Fp.units_eq_zero_iff z).2 hz, Nat.zero_mul,
    Fp.roundUnits_zero_num _ (by positivity), Fp.isZero_signedZero]

theorem Fp.isZero_div_left (hne : Fp.isZero x = false) : Fp.isZero (Fp.div z x) = true := by
  have hpos : 0 < Fp.units x := Nat.pos_of_ne_zero fun h0 => by simp [(Fp.units_eq_zero_iff x).1 h0] at hne
  rw [Fp.div_of_isFinite (Fp.isFinite_of_isZero hz) hx hne, (Fp.units_eq_zero_iff z).2 hz, Nat.zero_mul,
    Fp.roundUnits_zero_num _ hpos, Fp.isZero_signedZero]

end

/-- What is above +0.0 is no zero. -/
theorem Fp.isZero_eq_false_of_zero_lt {x : Fp} (h : Fp.lt Fp.zero x = true) : Fp.isZero x = false := by
  obtain ⟨_, _, hlt⟩ := (Fp.lt_iff Fp.zero x).1 h
  refine Bool.eq_false_iff.2 fun hx => ?_
  rw [Fp.value_eq_zero_of_isZero hx, Fp.value_eq_zero_of_isZero (by decide)] at hlt
  exact lt_irrefl _ hlt

end Sys2Proof

namespace Sys2Proof.Machine

variable {s t : State} {j : Joint}

/-- The gains of every configuration are finite (R8). -/
theorem gains_finite (c : Configuration) (j : Joint) : Fp.isFinite (c.kp.get j) = true ∧
    Fp.isFinite (c.ki.get j) = true ∧ Fp.isFinite (c.kd.get j) = true := by
  obtain ⟨_, _, _, _, hjoints⟩ := (parameters_valid_iff c.toParameters).1 c.ok
  obtain ⟨hkp, hki, hkd, _⟩ := (jointValid_iff _ j).1 (hjoints j).1
  exact ⟨hkp, hki, hkd⟩

/-- The period of every configuration is finite and no zero (R8, D11). -/
theorem period_valid (c : Configuration) : Fp.isFinite c.T = true ∧ Fp.isZero c.T = false := by
  obtain ⟨_, _, hfinite, hpos, _⟩ := (parameters_valid_iff c.toParameters).1 c.ok
  exact ⟨hfinite, Fp.isZero_eq_false_of_zero_lt hpos⟩

/-! The PID terms at equilibrium -/

theorem pidUiNext_at_zero (hui : (s.P.get j).ui = Fp.zero) : pidUiNext s j Fp.zero = Fp.zero := by
  obtain ⟨_, hki, _⟩ := gains_finite s.C j
  rw [pidUiNext, hui]
  exact Fp.zero_add_isZero (Fp.isZero_mul_left (period_valid s.C).1 (Fp.isZero_mul_right hki (by decide)))

theorem pidUd_at_zero (herr : (s.P.get j).error_prev = Fp.zero) : Fp.isZero (pidUd s j Fp.zero) = true := by
  obtain ⟨_, _, hkd⟩ := gains_finite s.C j
  obtain ⟨hfinite, hne⟩ := period_valid s.C
  unfold pidUd
  split
  · decide
  · rw [herr, fsub_eq, Fp.sub_self (by decide)]
    exact Fp.isZero_div_left hfinite (Fp.isZero_mul_right hkd (by decide)) hne

/-- With no error, no accumulator and no error history the sum is +0.0, whatever the signs of the gains (R117). -/
theorem pidUnsat_at_zero (hui : (s.P.get j).ui = Fp.zero) (herr : (s.P.get j).error_prev = Fp.zero) :
    pidUnsat s j Fp.zero Fp.zero = Fp.zero := by
  obtain ⟨hkp, _⟩ := gains_finite s.C j
  have hup : Fp.isZero (pidUp s j Fp.zero) = true := Fp.isZero_mul_right hkp (by decide)
  rw [pidUnsat, pidUiNext_at_zero hui]
  simp only [fadd_eq]
  rw [Fp.isZero_add_zero hup, Fp.zero_add_isZero (pidUd_at_zero herr), Fp.zero_add_isZero (by decide)]

/-- With no error neither mode moves an accumulator of +0.0 (R115, R120). -/
theorem pidUiStored_at_zero (hui : (s.P.get j).ui = Fp.zero) : pidUiStored s j Fp.zero Fp.zero = Fp.zero := by
  cases hAW : s.C.AW with
  | none => rw [pidUiStored_of_none hAW, pidUiNext_at_zero hui]
  | freeze => rw [pidUiStored_of_freeze hAW, pidUiNext_at_zero hui, hui, ite_self]

/-! A joint at rest -/

/-- Joint `j` is where R157 lets it be before a TICK that answers +0.0: its angle, velocity and command are free. -/
structure AtRest (j : Joint) (s : State) : Prop where
  setpoint : (s.J.get j).setpoint = Fp.zero
  previous_angle : (s.J.get j).previous_angle = Fp.zero
  ui : (s.P.get j).ui = Fp.zero
  error_prev : (s.P.get j).error_prev = Fp.zero
  u_min : Fp.le (s.C.u_min.get j) Fp.zero = true
  u_max : Fp.le Fp.zero (s.C.u_max.get j) = true

theorem AtRest.of_sameJoint (h : AtRest j s) (hs : SameJoint j s t) : AtRest j t := by
  obtain ⟨hsetpoint, hprev, hui, herr, hmin, hmax⟩ := h
  rw [← hs.J] at hsetpoint hprev
  rw [← hs.P] at hui herr
  rw [← hs.C] at hmin hmax
  exact ⟨hsetpoint, hprev, hui, herr, hmin, hmax⟩

/-- All that joint `j` holds is +0.0, and its controller has left state Reset. -/
structure AllZero (j : Joint) (t : State) : Prop where
  J : t.J.get j = ⟨Fp.zero, Fp.zero, Fp.zero, Fp.zero, Fp.zero⟩
  P : t.P.get j = ⟨Fp.zero, Fp.zero, false⟩

/-- One TICK that answers +0.0 brings a joint at rest to zero (R157). -/
theorem Servoed.allZero (h : Servoed j Fp.zero s t) (hrest : AtRest j s) : AllZero j t := by
  obtain ⟨hsetpoint, hprev, hui, herr, hmin, hmax⟩ := hrest
  have herror : fsub (s.J.get j).setpoint Fp.zero = Fp.zero := by
    rw [hsetpoint]
    exact Fp.sub_self (x := Fp.zero) (by decide)
  have hvelocity : velocityOf s j Fp.zero = Fp.zero := by
    have hsame := velocityOf_previous_angle s j (by rw [hprev]; decide)
    rwa [hprev] at hsame
  obtain ⟨hJ, hP, hcommand, _⟩ := h
  rw [herror, pidUnsat_at_zero hui herr, clamp_of_le hmin hmax] at hcommand
  constructor
  · rw [hJ, hcommand (by decide), sampledRecord, hsetpoint, hvelocity]
  · rw [hP, herror, pidUiStored_at_zero hui]

/-- A joint at zero is at rest for the next TICK. -/
theorem AllZero.atRest (h : AllZero j t) (hC : t.C = s.C) (hrest : AtRest j s) : AtRest j t := by
  exact ⟨by rw [h.J], by rw [h.J], by rw [h.P], by rw [h.P], hC ▸ hrest.u_min, hC ▸ hrest.u_max⟩

/-- The TICK of R157. -/
def zeroTick : Input := .tick ⟨Fp.zero, Fp.zero, Fp.zero⟩

theorem step_zeroTick {rest : List Input} (hu : s.uop = none) (hM : s.MEN = true) (hi : s.inputs = zeroTick :: rest)
    (hrest : ∀ j, AtRest j s) : ∃ t, step s = .next t ∧ t.uop = none ∧ t.MEN = true ∧ t.inputs = rest ∧
      ∀ j, AllZero j t ∧ AtRest j t := by
  refine ⟨_, step_tick hu hi, ?_, ?_, tick_inputs _ _, fun j => ?_⟩
  · rw [tick_uop]
    exact hu
  · rw [tick_MEN]
    exact hM
  · have hservoed := tick_servoed (s := { s with inputs := rest }) hM (PerJoint.same Fp.zero) j
    rw [PerJoint.get_same] at hservoed
    have hrest' : AtRest j { s with inputs := rest } := (hrest j).of_sameJoint ⟨rfl, rfl, rfl, rfl⟩
    have hzero := hservoed.allZero hrest'
    exact ⟨hzero, hzero.atRest (tick_C _ _) hrest'⟩

theorem run_zeroTicks (n : Nat) (hu : s.uop = none) (hM : s.MEN = true)
    (hi : s.inputs = List.replicate (n + 1) zeroTick) (hrest : ∀ j, AtRest j s) :
    ∃ t, core.run (n + 1) s = .next t ∧ t.MEN = true ∧ ∀ j, AllZero j t := by
  induction n generalizing s with
  | zero =>
    obtain ⟨t, hstep, _, htM, _, ht⟩ := step_zeroTick hu hM hi hrest
    exact ⟨t, run_succ hstep 0, htM, fun j => (ht j).1⟩
  | succ n ih =>
    obtain ⟨t, hstep, htu, htM, hti, ht⟩ := step_zeroTick hu hM hi hrest
    obtain ⟨u, hrun, hu⟩ := ih htu htM hti fun j => (ht j).2
    exact ⟨u, (run_succ hstep (n + 1)).trans hrun, hu⟩

/-- Settles O33: the first TICK brings every joint to zero, and zero is at rest. -/
theorem equilibriumIsASteadyState : Obligations.EquilibriumIsASteadyState := by
  intro s n hu hM hstart hi
  have hrest (j : Joint) : AtRest j s := by
    obtain ⟨hsetpoint, hprev, hui, herr, hmin, hmax⟩ := hstart j
    exact ⟨hsetpoint, hprev, hui, herr, hmin, hmax⟩
  obtain ⟨t, hrun, htM, ht⟩ := run_zeroTicks n hu hM hi hrest
  exact ⟨t, hrun, htM, fun j => ⟨(ht j).J, (ht j).P⟩⟩

end Sys2Proof.Machine
end

section
/-! SUPPORT. The scenario S8 (R152, R172, R173): a run of TICKs with motors disabled keeps what DISABLE left, and the
telemetry reports it. -/

namespace Sys2Proof.Machine

variable {s : State}

/-- Any number of TICKs with motors disabled change the samples and the event stream alone, and no command (R152). -/
theorem run_disabled_ticks (ticks : List (PerJoint Fp)) {rest : List Input} (hu : s.uop = none) (hM : s.MEN = false)
    (hi : s.inputs = ticks.map Input.tick ++ rest) (k : Nat) :
    ∃ J' events', core.run (ticks.length + k) s =
        core.run k { s with inputs := rest, J := J', events := events' } ∧
      ∀ j, (J'.get j).voltage_cmd = (s.J.get j).voltage_cmd := by
  induction ticks generalizing s with
  | nil =>
    refine ⟨s.J, s.events, ?_, fun _ => rfl⟩
    rw [← show s.inputs = rest from hi, List.length_nil, Nat.zero_add]
  | cons a ticks ih =>
    obtain ⟨J₁, hstep, hJ₁⟩ := disabledTickOnlySamples s a (ticks.map Input.tick ++ rest) hu hi hM
    obtain ⟨J', events', hrun, hJ'⟩ := ih (s := { s with
      inputs := ticks.map Input.tick ++ rest, J := J₁
      events := s.events ++ [.encRead 0, .encRead 1, .encRead 2] }) hu hM rfl
    refine ⟨J', events', ?_, fun j => (hJ' j).trans (by rw [hJ₁ j])⟩
    rw [List.length_cons, Nat.add_right_comm]
    exact (run_succ hstep _).trans hrun

/-- GETSTATE received in phase WaitOpcode sends the telemetry (R173). -/
theorem step_getstate {rest : List Input} (hS : s.C.SNAP = .guarded) (hu : s.uop = none) (hb : s.burst = [])
    (hd : s.DPH = .waitOpcode) (hi : s.inputs = .rx 0x03#8 :: rest) :
    step s = .next { s with inputs := rest, tx := s.tx ++ s.telemetry } := by
  rw [step_rx hu hi hb, dispatcherStep_opcode (s := { s with inputs := rest }) hd (i := .getstate) (more := []) rfl]
  exact runCommand_guarded { s with inputs := rest } _ _ hS

/-- DISABLE received in phase WaitOpcode (R172). -/
theorem step_disable {rest : List Input} (hS : s.C.SNAP = .guarded) (hu : s.uop = none) (hb : s.burst = [])
    (hd : s.DPH = .waitOpcode) (hi : s.inputs = .rx 0x02#8 :: rest) :
    step s = .next (disableAtOnce { s with inputs := rest }) := by
  rw [step_rx hu hi hb, dispatcherStep_opcode (s := { s with inputs := rest }) hd (i := .disable) (more := []) rfl]
  exact runCommand_guarded { s with inputs := rest } _ _ hS

theorem disableAtOnce_voltage_cmd (s : State) (j : Joint) :
    ((disableAtOnce s).J.get j).voltage_cmd = Fp.zero := by
  rw [disableAtOnce_eq]
  fin_cases j <;> rfl

/-- A voltage command of +0.0 is reported as four zero bytes: field 3 of the joint's block in the layout (R51). -/
theorem telemetry_zero_volts {j : Joint} (h : (s.J.get j).voltage_cmd = Fp.zero) (i : Fin 4) :
    s.telemetry[16 * j.val + 12 + i.val]? = some 0#8 := by
  have hbyte := getElem?_telemetry s j (k := 3) (f := .voltage_cmd) rfl i
  rw [State.readField, h] at hbyte
  exact hbyte.trans (congrArg some (by fin_cases i <;> rfl))

/-- With motors disabled and every command +0.0, GETSTATE after any number of TICKs reports zero volts (R152,
R173). -/
theorem run_disabled_ticks_getstate (ticks : List (PerJoint Fp)) (hS : s.C.SNAP = .guarded) (hu : s.uop = none)
    (hb : s.burst = []) (hd : s.DPH = .waitOpcode) (hM : s.MEN = false)
    (hi : s.inputs = ticks.map Input.tick ++ [.rx 0x03#8]) (hzero : ∀ j, (s.J.get j).voltage_cmd = Fp.zero) :
    ∃ t bs, core.run (ticks.length + 1) s = .next t ∧ t.MEN = false ∧ t.tx = s.tx ++ bs ∧ bs.length = 48 ∧
      t.ACT = s.ACT ∧ ∀ j, (t.J.get j).voltage_cmd = Fp.zero ∧
        ∀ i : Fin 4, bs[16 * j.val + 12 + i.val]? = some 0#8 := by
  obtain ⟨J', events', hrun, hkept⟩ := run_disabled_ticks ticks hu hM hi 1
  have hsend := step_getstate (s := { s with inputs := [.rx 0x03#8], J := J', events := events' }) hS hu hb hd rfl
  have hvolts (j : Joint) : (J'.get j).voltage_cmd = Fp.zero := (hkept j).trans (hzero j)
  exact ⟨_, _, hrun.trans (run_succ hsend 0), hM, rfl, length_telemetry _, rfl,
    fun j => ⟨hvolts j, telemetry_zero_volts (hvolts j)⟩⟩

/-- Settles O43: DISABLE leaves motors disabled, zero commands and disarmed channels, and the rest of the run keeps
them. -/
theorem disabledArmReportsZeroVolts : Obligations.DisabledArmReportsZeroVolts := by
  intro s ticks hS hu hb hd hi
  obtain ⟨t, bs, hrun, hM, htx, hlen, hACT, hvolts⟩ := run_disabled_ticks_getstate
    (s := disableAtOnce { s with inputs := ticks.map Input.tick ++ [.rx 0x03#8] }) ticks hS hu hb hd rfl rfl
    (disableAtOnce_voltage_cmd _)
  refine ⟨t, bs, (run_succ (step_disable hS hu hb hd hi) _).trans hrun, hM, htx, hlen, fun j => ⟨?_, hvolts j⟩⟩
  rw [hACT]
  exact disableAtOnce_channel _ j

end Sys2Proof.Machine
end

section
/-! SUPPORT. Channels armed at their neutral offset (R205, R208): a command of either zero moves the pulse width from
the offset by the sign of a zero at most, and the window holds it. -/

namespace Sys2Proof

/-- Adding a zero of either sign changes the sign of a zero at most (R117). -/
theorem Fp.eqUpToZeroSign_add_isZero {x z : Fp} (hn : Fp.isNaN x = false) (hz : Fp.isZero z = true) :
    Fp.EqUpToZeroSign (Fp.add x z) x := by
  cases hx : Fp.isZero x with
  | false => exact .inl (Fp.add_isZero_right hz hn hx)
  | true =>
    rw [Fp.add_of_isZero hz hx]
    exact .inr ⟨Fp.isZero_signedZero _, hx⟩

end Sys2Proof

namespace Sys2Proof.Machine

/-- The constants of every channel: a finite offset and scale, and a window that holds the offset (R208; log 12). -/
theorem channel_valid (c : Configuration) (j : Joint) :
    Fp.isFinite (c.act.get j).offset = true ∧
    Fp.isFinite (fdiv (c.act.get j).pulse_range (c.act.get j).cmd_max) = true ∧
    Fp.le (c.act.get j).pulse_min (c.act.get j).offset = true ∧
    Fp.le (c.act.get j).offset (c.act.get j).pulse_max = true := by
  obtain ⟨_, _, _, _, hjoints⟩ := (parameters_valid_iff c.toParameters).1 c.ok
  have hvalid := (hjoints j).2
  simp only [ActuatorConstants.valid, Bool.and_eq_true] at hvalid
  obtain ⟨⟨⟨⟨⟨⟨⟨⟨hoffset, _⟩, _⟩, _⟩, hscale⟩, _⟩, _⟩, hlo⟩, hhi⟩ := hvalid
  exact ⟨hoffset, hscale, hlo, hhi⟩

/-- A command of either zero asks for the neutral offset, up to the sign of a zero (R205, R207). -/
theorem pulseOf_isZero (c : Configuration) (j : Joint) {z : Fp} (hz : Fp.isZero z = true) :
    Fp.EqUpToZeroSign (pulseOf (c.act.get j) z) (c.act.get j).offset := by
  obtain ⟨hoffset, hscale, _, _⟩ := channel_valid c j
  exact Fp.eqUpToZeroSign_add_isZero (Fp.isNaN_eq_false_of_isFinite hoffset) (Fp.isZero_mul_left hscale hz)

/-- The window leaves the pulse width of a zero command at the neutral offset, as a value (R208). -/
theorem value_clamp_pulseOf_isZero (c : Configuration) (j : Joint) {z : Fp} (hz : Fp.isZero z = true) :
    Fp.value (clamp (pulseOf (c.act.get j) z) (c.act.get j).pulse_min (c.act.get j).pulse_max) =
      Fp.value (c.act.get j).offset := by
  obtain ⟨_, _, hlo, hhi⟩ := channel_valid c j
  have hpulse := pulseOf_isZero c j hz
  rw [hpulse.clamp_eq hlo hhi, hpulse.value_eq]

theorem armedChannels_get (c : Parameters) (j : Joint) :
    (armedChannels c).get j = ⟨true, neutralPulse (c.act.get j)⟩ := by
  fin_cases j <;> rfl

end Sys2Proof.Machine
end

section
/-! SUPPORT. The host commands at one instant (R171, R172, R175 to R179): the byte each one is, and the whole state it
leaves. -/

namespace Sys2Proof.Machine

variable {s : State}

/-- Settles O35: `enableAtOnce_eq` gives the state, and a command of +0.0 the neutral offset of each channel. -/
theorem enableResetsAndArms : Obligations.EnableResetsAndArms := by
  refine fun s hS => ⟨rfl, armedChannels s.C.toParameters, ?_, fun j => ?_⟩
  · exact (runCommand_guarded s _ _ hS).trans (congrArg _ (enableAtOnce_eq s))
  · rw [armedChannels_get]
    exact ⟨rfl, value_clamp_pulseOf_isZero s.C j (by decide)⟩

/-- Settles O36: `disableAtOnce_eq` gives the state. -/
theorem disableZeroesAndDisarms : Obligations.DisableZeroesAndDisarms :=
  fun s hS => ⟨rfl, (runCommand_guarded s _ _ hS).trans (congrArg _ (disableAtOnce_eq s))⟩

/-- Settles O38: each stored value is the clamp of its operand between limits that are in order, and without a NaN no
free value is drawn. -/
theorem setpointStoresClampedValues : Obligations.SetpointStoresClampedValues := by
  intro s sp0 sp1 sp2 hS
  refine ⟨(clampSetpoints sp0 sp1 sp2 s).1, (clampSetpoints sp0 sp1 sp2 s).2.draws, ?_, fun j hj => ?_, fun h => ?_⟩
  · rw [exec_setpoint_guarded sp0 sp1 sp2 hS, storeSetpoints_eq]
  · obtain ⟨hbelow, habove, hinside, hlo, hhi, _, _⟩ :=
      clampGivesTheNearestValueInRange (setpointOperand sp0 sp1 sp2 j) _ _ (limits_ordered s.C j) hj
    rw [clampSetpoints_get hj]
    exact ⟨hbelow, habove, hinside, hlo, hhi⟩
  · rw [clampSetpoints_state_of_not_nan h]

/-- The bytes that are no opcode are unrecognised (R84, R88). -/
theorem decode_of_no_opcode {b : Byte} (hb : b = 0x00#8 ∨ 0x07#8 ≤ b) (bs : List Byte) :
    decode (b :: bs) = .unrecognised b bs := by
  rcases decode_cases b bs with ⟨rfl, _⟩ | ⟨rfl, _⟩ | ⟨rfl, _⟩ | ⟨rfl, _⟩ | ⟨rfl, _⟩ | ⟨rfl, _⟩ | ⟨_, h⟩
  case inr.inr.inr.inr.inr.inr => exact h
  all_goals exact absurd hb (by decide)

/-- An unrecognised byte in phase WaitOpcode changes nothing (R179). -/
theorem dispatcherStep_unrecognised {b o : Byte} {more : List Byte} (hd : s.DPH = .waitOpcode)
    (h : decode [b] = .unrecognised o more) : dispatcherStep b s = .next s := by
  simp only [dispatcherStep, hd, h]

/-- Settles O8: the dispatcher receives the byte, which is no opcode. -/
theorem unrecognisedByteChangesNothing : Obligations.UnrecognisedByteChangesNothing := by
  intro s b rest hu hi hb hd hbyte
  rw [step_rx hu hi hb]
  exact dispatcherStep_unrecognised (s := { s with inputs := rest }) hd (decode_of_no_opcode hbyte [])

/-- Taking a gripper position writes `GRIP` and the event stream alone where nothing in the model reacts to the event
(R177, R178, R209). -/
theorem gripAtOnce_eq (g : Grip) {e : Event} (he : ∀ u : State, u.react e = u) (s : State) :
    gripAtOnce g e s = { s with GRIP := g, events := s.events ++ [e] } := he _

/-- Settles O39: `gripAtOnce_eq` for `GripOpen`, to which nothing reacts. -/
theorem gripopenOpensTheGripper : Obligations.GripopenOpensTheGripper :=
  fun s hS => ⟨rfl, (runCommand_guarded s _ _ hS).trans (congrArg _ (gripAtOnce_eq .opened (fun _ => rfl) s))⟩

/-- Settles O40: `gripAtOnce_eq` for `GripClose`, to which nothing reacts. -/
theorem gripcloseClosesTheGripper : Obligations.GripcloseClosesTheGripper :=
  fun s hS => ⟨rfl, (runCommand_guarded s _ _ hS).trans (congrArg _ (gripAtOnce_eq .closed (fun _ => rfl) s))⟩

end Sys2Proof.Machine
end

section
/-! SUPPORT. The Actuator Channel's contract (R205 to R208): the whole state each event sent to a channel leaves. -/

namespace Sys2Proof

theorem Fp.le_trans {a b c : Fp} (hab : Fp.le a b = true) (hbc : Fp.le b c = true) : Fp.le a c = true := by
  obtain ⟨na, _, vab⟩ := (Fp.le_iff a b).1 hab
  obtain ⟨_, nc, vbc⟩ := (Fp.le_iff b c).1 hbc
  exact (Fp.le_iff a c).2 ⟨na, nc, vab.trans vbc⟩

end Sys2Proof

namespace Sys2Proof.Machine

/-- The window of every channel is in order: it holds the neutral offset (R208; log 12). -/
theorem window_ordered (c : Configuration) (j : Joint) :
    Fp.le (c.act.get j).pulse_min (c.act.get j).pulse_max = true := by
  obtain ⟨_, _, hlo, hhi⟩ := channel_valid c j
  exact Fp.le_trans hlo hhi

variable {s : State} {j : Joint} {v : Fp}

/-- A disarmed channel ignores `ActSet` (R207). -/
theorem emit_actSet_of_disarmed (hd : (s.ACT.get j).armed = false) :
    s.emit (.actSet j v) = { s with events := s.events ++ [.actSet j v] } := by
  rcases setCmd_cases { s with events := s.events ++ [.actSet j v] } j v with ⟨_, h⟩ | ⟨ha, _⟩ | ⟨ha, _⟩
  · exact h
  all_goals exact Bool.noConfusion (hd.symm.trans ha)

/-- `ActSet` writes the clamped pulse width of an armed channel where that is a number (R207). -/
theorem emit_actSet_of_not_nan (ha : (s.ACT.get j).armed = true) (hn : Fp.isNaN (pulseOf (s.C.act.get j) v) = false) :
    s.emit (.actSet j v) = { s with
      events := s.events ++ [.actSet j v]
      ACT := s.ACT.set j ⟨true, clamp (pulseOf (s.C.act.get j) v) (s.C.act.get j).pulse_min
        (s.C.act.get j).pulse_max⟩ } := by
  rcases setCmd_cases { s with events := s.events ++ [.actSet j v] } j v with ⟨hd, _⟩ | ⟨_, _, h⟩ | ⟨_, hn', _⟩
  · exact Bool.noConfusion (hd.symm.trans ha)
  · exact h
  · exact Bool.noConfusion (hn.symm.trans hn')

/-- `ActSet` gives an armed channel a free value where its pulse width is a NaN (U1, log 3). -/
theorem emit_actSet_of_nan (ha : (s.ACT.get j).armed = true) (hn : Fp.isNaN (pulseOf (s.C.act.get j) v) = true) :
    s.emit (.actSet j v) = { s with
      events := s.events ++ [.actSet j v]
      ACT := s.ACT.set j ⟨true, Config.freeFp s.draws⟩
      draws := s.draws + 1 } := by
  rcases setCmd_cases { s with events := s.events ++ [.actSet j v] } j v with ⟨hd, _⟩ | ⟨_, hn', _⟩ | ⟨_, _, h⟩
  · exact Bool.noConfusion (hd.symm.trans ha)
  · exact Bool.noConfusion (hn'.symm.trans hn)
  · exact h

/-- Settles O48: one equation for each event; the window is in order, and it holds the neutral offset that a zero
command asks for. -/
theorem actuatorChannelContract : Obligations.ActuatorChannelContract := by
  intro s j
  refine ⟨fun v hd => emit_actSet_of_disarmed hd,
    fun v ha => ⟨isNaN_pulseOf_of_isFinite s.C j,
      fun hn => ⟨emit_actSet_of_not_nan ha hn, clamp_mem_bounds (window_ordered s.C j) hn⟩,
      emit_actSet_of_nan ha⟩,
    rfl,
    ⟨_, emit_actEnable_eq s j, value_clamp_pulseOf_isZero s.C j (by decide)⟩,
    fun z hz ha => ⟨_, emit_actSet_of_not_nan ha ?_, value_clamp_pulseOf_isZero s.C j hz⟩⟩
  exact isNaN_pulseOf_of_isFinite s.C j (Fp.isFinite_of_isZero hz)

end Sys2Proof.Machine
end
